-- ==== Sys2Proof/Word.lean ====
section
/-! DEFINITION. The value types of the machine (00_scope.md R6, R10, R11). -/

namespace Sys2Proof

/-- A memory byte, a general register, a timer or the stack pointer: 8 bits. -/
abbrev Byte := BitVec 8

/-- pc, I, a stack slot, an instruction word: 16 bits. -/
abbrev Word := BitVec 16

/-- The index of a general register, V0 to VF. -/
abbrev RegIx := Fin 16

/-- The index of a keypad slot, 0x0 to 0xF. -/
abbrev KeyIx := Fin 16

/-- A 12-bit address field nnn. -/
abbrev Addr12 := BitVec 12

/-- `zext_16` of an 8-bit value. -/
def zext16 (b : Byte) : Word := b.setWidth 16

/-- `zext_16` of a 12-bit value. -/
def addr16 (a : Addr12) : Word := a.setWidth 16

end Sys2Proof
end

