-- ==== Sys2Proof/Config.lean ====
section
/-! DEFINITION. The fixed constants of the hardware (00_scope.md R6), its parameters (R7) and the free value. -/

namespace Sys2Proof

/-- Bytes of memory (R6). -/
abbrev memSize : Nat := 4096
/-- First byte of the built-in font (R6). -/
abbrev fontBase : Nat := 0x050
/-- Bytes of font (R6). -/
abbrev fontSize : Nat := 80
/-- Bytes of one glyph (R6). -/
abbrev glyphBytes : Nat := 5
/-- First byte of program space and the reset value of pc (R6). -/
abbrev progBase : Nat := 0x200
/-- The largest ROM that loads (R6). -/
abbrev progMax : Nat := 3584
/-- The highest address at which a two-byte fetch lies inside memory (40_cycle_dispatch.md R103). -/
abbrev lastFetch : Nat := 0x0FFE
/-- Framebuffer width in pixels (R6). -/
abbrev fbW : Nat := 64
/-- Framebuffer height in pixels (R6). -/
abbrev fbH : Nat := 32

/-- `CFG.add_vf_mode` (R7, R9, 44_alu.md R145): what 8xy4 writes to VF. -/
inductive AddVfMode where
  | carry
  | alwaysOne
  deriving DecidableEq, Repr

/-- `CFG.low_nibble_5_9` (R7, 42_skip.md R124): what 5xyN and 9xyN do when N is not 0. -/
inductive LowNibble59 where
  | nop
  | ignore
  deriving DecidableEq, Repr

/-- The parameters a model takes as arguments (R7). DESIGN CHOICE (log entry 2): State carries them in a field no
step writes, so that a statement about every state is a statement for every value of them. -/
structure Config where
  addVfMode : AddVfMode
  lowNibble59 : LowNibble59
  font : Vector Byte 80
  deriving DecidableEq, Repr

/-- `RandomByte()` (43_load_imm.md R133): the n-th draw, under no law. A free value (log entry 4): nothing constrains it. -/
opaque Config.randomByte : Nat → Byte

end Sys2Proof
end

