-- ==== Sys2Proof/Syntax.lean ====
section
/-! DEFINITION. The instructions: one constructor for each row of spec/opcode_table.json (30_encoding.md R84, R85). -/

namespace Sys2Proof

/-- The 35 instruction rows and the 5 reserved rows of the opcode table. `x` and `y` are register fields, `kk` the 8-bit
immediate, `nnn` the 12-bit address, `n` the low nibble (R81, R82). SHR and SHL carry the y field they ignore (R87), since
the fault record and the encoder need the whole word. -/
inductive Instr where
  /-- 00E0 -/
  | cls
  /-- 00EE -/
  | ret
  /-- 0nnn, every nnn but 0E0 and 0EE -/
  | sys (nnn : Addr12)
  /-- 1nnn -/
  | jp (nnn : Addr12)
  /-- 2nnn -/
  | call (nnn : Addr12)
  /-- 3xkk -/
  | seKk (x : RegIx) (kk : Byte)
  /-- 4xkk -/
  | sneKk (x : RegIx) (kk : Byte)
  /-- 5xy0 -/
  | seVy (x y : RegIx)
  /-- 6xkk -/
  | ldKk (x : RegIx) (kk : Byte)
  /-- 7xkk -/
  | addKk (x : RegIx) (kk : Byte)
  /-- 8xy0 -/
  | ldVy (x y : RegIx)
  /-- 8xy1 -/
  | orVy (x y : RegIx)
  /-- 8xy2 -/
  | andVy (x y : RegIx)
  /-- 8xy3 -/
  | xorVy (x y : RegIx)
  /-- 8xy4 -/
  | addVy (x y : RegIx)
  /-- 8xy5 -/
  | sub (x y : RegIx)
  /-- 8xy6 -/
  | shr (x y : RegIx)
  /-- 8xy7 -/
  | subn (x y : RegIx)
  /-- 8xyE -/
  | shl (x y : RegIx)
  /-- 9xy0 -/
  | sneVy (x y : RegIx)
  /-- Annn -/
  | ldI (nnn : Addr12)
  /-- Bnnn -/
  | jpV0 (nnn : Addr12)
  /-- Cxkk -/
  | rnd (x : RegIx) (kk : Byte)
  /-- Dxyn -/
  | drw (x y n : Fin 16)
  /-- Ex9E -/
  | skp (x : RegIx)
  /-- ExA1 -/
  | sknp (x : RegIx)
  /-- Fx07 -/
  | ldVxDt (x : RegIx)
  /-- Fx0A -/
  | ldVxK (x : RegIx)
  /-- Fx15 -/
  | ldDtVx (x : RegIx)
  /-- Fx18 -/
  | ldStVx (x : RegIx)
  /-- Fx1E -/
  | addI (x : RegIx)
  /-- Fx29 -/
  | ldF (x : RegIx)
  /-- Fx33 -/
  | ldB (x : RegIx)
  /-- Fx55 -/
  | stRegs (x : RegIx)
  /-- Fx65 -/
  | ldRegs (x : RegIx)
  /-- 5xyN, N not 0 -/
  | reserved5 (x y n : Fin 16)
  /-- 8xyN, N in 8, 9, A, B, C, D, F -/
  | reserved8 (x y n : Fin 16)
  /-- 9xyN, N not 0 -/
  | reserved9 (x y n : Fin 16)
  /-- Exkk, kk not 9E and not A1 -/
  | reservedE (x : RegIx) (kk : Byte)
  /-- Fxkk, kk none of the nine codes of family F -/
  | reservedF (x : RegIx) (kk : Byte)
  deriving DecidableEq, Repr

end Sys2Proof
end

