-- ==== Sys2Proof/WellFormed.lean ====
section
/-! DEFINITION. Which terms of Instr stand for a word: a catch-all row does not take the words of a row with more mask bits
(30_encoding.md R84, R85). -/

namespace Sys2Proof

/-- The function codes of family 8 that name an ALU operation (R84). -/
def aluCode (n : Fin 16) : Bool := n.val ≤ 7 || n.val == 0xE

/-- The function codes of family E that name an instruction (R84). -/
def keyCode (kk : Byte) : Bool := [0x9E#8, 0xA1#8].contains kk

/-- The function codes of family F that name an instruction (R84). -/
def miscCode (kk : Byte) : Bool :=
  [0x07#8, 0x0A#8, 0x15#8, 0x18#8, 0x1E#8, 0x29#8, 0x33#8, 0x55#8, 0x65#8].contains kk

/-- An instruction is well formed when its fields lie in the space of its row (R85). -/
def wellFormed : Instr → Bool
  | .sys nnn => nnn != 0x0E0#12 && nnn != 0x0EE#12
  | .reserved5 _ _ n => n.val != 0
  | .reserved8 _ _ n => !aluCode n
  | .reserved9 _ _ n => n.val != 0
  | .reservedE _ kk => !keyCode kk
  | .reservedF _ kk => !miscCode kk
  | .cls | .ret | .jp _ | .call _ | .seKk _ _ | .sneKk _ _ | .seVy _ _ | .ldKk _ _ | .addKk _ _ | .ldVy _ _
  | .orVy _ _ | .andVy _ _ | .xorVy _ _ | .addVy _ _ | .sub _ _ | .shr _ _ | .subn _ _ | .shl _ _ | .sneVy _ _
  | .ldI _ | .jpV0 _ | .rnd _ _ | .drw _ _ _ | .skp _ | .sknp _ | .ldVxDt _ | .ldVxK _ | .ldDtVx _ | .ldStVx _
  | .addI _ | .ldF _ | .ldB _ | .stRegs _ | .ldRegs _ => true

end Sys2Proof
end

