-- ==== Sys2Proof/Decode.lean ====
section
/-! DEFINITION. The decoder, total on any bytes, and after it the encoder (30_encoding.md R80 to R88). -/

namespace Sys2Proof

/-- Why bytes hold no instruction. The only reason is that fewer than two bytes are left: every 16-bit word is an
instruction (R88). -/
inductive DecodeError where
  /-- Fewer than the two bytes of an instruction. -/
  | truncated
  deriving DecidableEq, Repr

/-! ## Fields (R81, R82, 00_scope.md R15) -/

/-- The nibble of `w` whose lowest bit is bit `lo`. -/
def nibble (w : Word) (lo : Nat) : Fin 16 := (w.extractLsb' lo 4).toFin

/-- h = op[15:12], the dispatch selector. -/
def fieldH (w : Word) : Fin 16 := nibble w 12
/-- x = op[11:8]. -/
def fieldX (w : Word) : Fin 16 := nibble w 8
/-- y = op[7:4]. -/
def fieldY (w : Word) : Fin 16 := nibble w 4
/-- n = op[3:0]. -/
def fieldN (w : Word) : Fin 16 := nibble w 0
/-- kk = op[7:0]. -/
def fieldKk (w : Word) : Byte := w.extractLsb' 0 8
/-- nnn = op[11:0]. -/
def fieldNnn (w : Word) : Addr12 := w.extractLsb' 0 12

/-! ## Second-level selection inside the families 0, 5, 8, 9, E and F (R83, 40_cycle_dispatch.md R105) -/

/-- Family 0: the whole word selects CLS and RET, every other word is SYS. -/
def decode0 (nnn : Addr12) : Instr :=
  if nnn = 0x0E0#12 then .cls else if nnn = 0x0EE#12 then .ret else .sys nnn

/-- Family 5: 5xy0, else reserved (R86). -/
def decode5 (x y n : Fin 16) : Instr := if n = 0 then .seVy x y else .reserved5 x y n

/-- Family 8: the function code op[3:0]. -/
def decode8 (x y n : Fin 16) : Instr :=
  match n.val with
  | 0x0 => .ldVy x y
  | 0x1 => .orVy x y
  | 0x2 => .andVy x y
  | 0x3 => .xorVy x y
  | 0x4 => .addVy x y
  | 0x5 => .sub x y
  | 0x6 => .shr x y
  | 0x7 => .subn x y
  | 0xE => .shl x y
  | _ => .reserved8 x y n

/-- Family 9: 9xy0, else reserved (R86). -/
def decode9 (x y n : Fin 16) : Instr := if n = 0 then .sneVy x y else .reserved9 x y n

/-- Family E: the function code op[7:0]. -/
def decodeE (x : RegIx) (kk : Byte) : Instr :=
  if kk = 0x9E#8 then .skp x else if kk = 0xA1#8 then .sknp x else .reservedE x kk

/-- Family F: the function code op[7:0]. -/
def decodeF (x : RegIx) (kk : Byte) : Instr :=
  if kk = 0x07#8 then .ldVxDt x
  else if kk = 0x0A#8 then .ldVxK x
  else if kk = 0x15#8 then .ldDtVx x
  else if kk = 0x18#8 then .ldStVx x
  else if kk = 0x1E#8 then .addI x
  else if kk = 0x29#8 then .ldF x
  else if kk = 0x33#8 then .ldB x
  else if kk = 0x55#8 then .stRegs x
  else if kk = 0x65#8 then .ldRegs x
  else .reservedF x kk

/-- First-level selection by the top nibble, sixteen ways (R83, R105). Total: every word has a meaning (R88). -/
def decodeWord (w : Word) : Instr :=
  match (fieldH w).val with
  | 0x0 => decode0 (fieldNnn w)
  | 0x1 => .jp (fieldNnn w)
  | 0x2 => .call (fieldNnn w)
  | 0x3 => .seKk (fieldX w) (fieldKk w)
  | 0x4 => .sneKk (fieldX w) (fieldKk w)
  | 0x5 => decode5 (fieldX w) (fieldY w) (fieldN w)
  | 0x6 => .ldKk (fieldX w) (fieldKk w)
  | 0x7 => .addKk (fieldX w) (fieldKk w)
  | 0x8 => decode8 (fieldX w) (fieldY w) (fieldN w)
  | 0x9 => decode9 (fieldX w) (fieldY w) (fieldN w)
  | 0xA => .ldI (fieldNnn w)
  | 0xB => .jpV0 (fieldNnn w)
  | 0xC => .rnd (fieldX w) (fieldKk w)
  | 0xD => .drw (fieldX w) (fieldY w) (fieldN w)
  | 0xE => decodeE (fieldX w) (fieldKk w)
  | _ => decodeF (fieldX w) (fieldKk w)

/-- Two bytes make a word big-endian: the byte at the lower address is op[15:8] (20_memory.md R56). -/
def wordOfBytes (hi lo : Byte) : Word := hi ++ lo

/-- The high byte of a word, stored at the lower address (R56). -/
def hiByte (w : Word) : Byte := w.extractLsb' 8 8

/-- The low byte of a word, stored at the higher address (R56). -/
def loByte (w : Word) : Byte := w.extractLsb' 0 8

/-- Decode the instruction at the front of a list of bytes and give the rest. -/
def decodeBytes : List Byte → Except DecodeError (Instr × List Byte)
  | hi :: lo :: rest => .ok (decodeWord (wordOfBytes hi lo), rest)
  | [] => .error .truncated
  | [_] => .error .truncated

/-! ## The encoder, written from the pattern column of R84 -/

/-- Format XYN: four nibbles. -/
def wordXyn (h x y n : Fin 16) : Word :=
  BitVec.ofFin (w := 4) h ++ BitVec.ofFin (w := 4) x ++ BitVec.ofFin (w := 4) y ++ BitVec.ofFin (w := 4) n

/-- Formats XKK and XFF: two nibbles and a byte. -/
def wordXkk (h x : Fin 16) (kk : Byte) : Word := BitVec.ofFin (w := 4) h ++ BitVec.ofFin (w := 4) x ++ kk

/-- Format NNN: a nibble and an address. -/
def wordNnn (h : Fin 16) (nnn : Addr12) : Word := BitVec.ofFin (w := 4) h ++ nnn

/-- The word of an instruction (R84). -/
def encode : Instr → Word
  | .cls => 0x00E0#16
  | .ret => 0x00EE#16
  | .sys nnn => wordNnn 0x0 nnn
  | .jp nnn => wordNnn 0x1 nnn
  | .call nnn => wordNnn 0x2 nnn
  | .seKk x kk => wordXkk 0x3 x kk
  | .sneKk x kk => wordXkk 0x4 x kk
  | .seVy x y => wordXyn 0x5 x y 0x0
  | .ldKk x kk => wordXkk 0x6 x kk
  | .addKk x kk => wordXkk 0x7 x kk
  | .ldVy x y => wordXyn 0x8 x y 0x0
  | .orVy x y => wordXyn 0x8 x y 0x1
  | .andVy x y => wordXyn 0x8 x y 0x2
  | .xorVy x y => wordXyn 0x8 x y 0x3
  | .addVy x y => wordXyn 0x8 x y 0x4
  | .sub x y => wordXyn 0x8 x y 0x5
  | .shr x y => wordXyn 0x8 x y 0x6
  | .subn x y => wordXyn 0x8 x y 0x7
  | .shl x y => wordXyn 0x8 x y 0xE
  | .sneVy x y => wordXyn 0x9 x y 0x0
  | .ldI nnn => wordNnn 0xA nnn
  | .jpV0 nnn => wordNnn 0xB nnn
  | .rnd x kk => wordXkk 0xC x kk
  | .drw x y n => wordXyn 0xD x y n
  | .skp x => wordXkk 0xE x 0x9E#8
  | .sknp x => wordXkk 0xE x 0xA1#8
  | .ldVxDt x => wordXkk 0xF x 0x07#8
  | .ldVxK x => wordXkk 0xF x 0x0A#8
  | .ldDtVx x => wordXkk 0xF x 0x15#8
  | .ldStVx x => wordXkk 0xF x 0x18#8
  | .addI x => wordXkk 0xF x 0x1E#8
  | .ldF x => wordXkk 0xF x 0x29#8
  | .ldB x => wordXkk 0xF x 0x33#8
  | .stRegs x => wordXkk 0xF x 0x55#8
  | .ldRegs x => wordXkk 0xF x 0x65#8
  | .reserved5 x y n => wordXyn 0x5 x y n
  | .reserved8 x y n => wordXyn 0x8 x y n
  | .reserved9 x y n => wordXyn 0x9 x y n
  | .reservedE x kk => wordXkk 0xE x kk
  | .reservedF x kk => wordXkk 0xF x kk

/-- The two bytes of an instruction as memory holds them (R56, R80). -/
def encodeBytes (i : Instr) : List Byte := [hiByte (encode i), loByte (encode i)]

/-- The instruction the decoder reads from the table's word `w` of `nbits` bits, laid out in memory order. The table's
rows are one 16-bit word; a number that needs more bits is no instruction. -/
def decodeTableWord (nbits w : Nat) : Option Instr :=
  if nbits ≤ 16 ∧ w < 2 ^ nbits then
    match decodeBytes [hiByte (BitVec.ofNat 16 w), loByte (BitVec.ofNat 16 w)] with
    | .ok (i, _) => some i
    | .error _ => none
  else none

end Sys2Proof
end

