-- ==== Sys2Proof/Machine/State.lean ====
section
/-! DEFINITION. The state of the machine as plain data, its reset value and the reasons a step can stop. -/

namespace Sys2Proof.Machine

/-- The five fault codes of the machine's own fault latch (60_exceptions.md R202). -/
inductive FaultCode where
  | fetchOob
  | memOob
  | stackOverflow
  | stackUnderflow
  | keyOob
  deriving DecidableEq, Repr

/-- What the latch holds when it is set: `Some(code, addr, opcode)` (10_state.md R34, 60_exceptions.md R201). -/
structure FaultRecord where
  code : FaultCode
  addr : Word
  opcode : Word
  deriving DecidableEq, Repr

/-- The operations the host issues (10_state.md R40). A key index has sixteen values, so an index above 15 cannot be
written (60_exceptions.md R219); the length of a ROM is the number of its bytes (20_memory.md R66). -/
inductive HostOp where
  /-- `init()` -/
  | init
  /-- `load(buffer, length)` -/
  | load (buffer : List Byte)
  /-- `cycle()` -/
  | cycle
  /-- `tick_timers()` -/
  | tickTimers
  /-- `set_key(index, pressed)` -/
  | setKey (index : KeyIx) (pressed : Bool)
  /-- framebuffer read -/
  | readFramebuffer
  /-- timer read -/
  | readTimers
  deriving DecidableEq, Repr

/-- Memory as (address, byte) pairs. `Memory.wf` (Ops.lean) is its canonical form; an address that is not listed reads as
`Memory.background` (Ops.lean), its content after `init`. -/
abbrev Memory := List Host.Cell

/-- The complete state of the machine (10_state.md R20), its parameters (R37) and two fields of the model's own. -/
structure State where
  /-- V0 to VF (R21, R22) -/
  v : Vector Byte 16
  /-- the program counter (R23) -/
  pc : Word
  /-- the address register I (R24) -/
  i : Word
  /-- the stack pointer (R25) -/
  sp : Byte
  /-- the call stack (R26) -/
  stack : Vector Word 16
  /-- the delay timer DT (R27) -/
  dt : Byte
  /-- the sound timer ST (R28) -/
  st : Byte
  /-- memory (R29) -/
  mem : Memory
  /-- the framebuffer (R30): row y is `fb[y]`, column x is bit x of the row -/
  fb : Vector (BitVec 64) 32
  /-- the keypad (R31): true is pressed -/
  key : Vector Bool 16
  /-- the fault latch (R34) -/
  fault : Option FaultRecord
  /-- the parameters (R37, 00_scope.md R7); no step writes them (log entry 2) -/
  cfg : Config
  /-- the model's own: how many random bytes have been drawn (log entry 4) -/
  draws : Nat
  /-- the model's own: the operations the host issues next, oldest first; when none is listed the host issues `cycle`
  (R41, log entry 1) -/
  schedule : List HostOp
  deriving DecidableEq, Repr

/-- The reasons a step stops without a next state. The machine's own faults are not here: raising one is a next state with
the latch set (60_exceptions.md R201). -/
inductive Fault where
  /-- Raised by RET when sp is above 15, where the stack has no slot. 10_state.md R25 excludes such states and no step
  reaches one (log entry 6). Safe: the model stops where the spec gives no rule. -/
  | stackSlotMissing
  deriving DecidableEq, Repr

/-- The reasons an instruction has no meaning. -/
inductive Refusal where
  /-- Raised by an arm of `exec` whose instruction has no meaning yet; no arm raises it now. Safe: the model stops. -/
  | notModelled (mnemonic : String)
  deriving DecidableEq, Repr

/-- The state `init` leaves (10_state.md R38, 70_reset_and_hazards.md R230) on a machine with parameters `c`. Memory lists
nothing: every address reads as its content after `init`. -/
def State.initial (c : Config) : State where
  v := Vector.replicate 16 0#8
  pc := 0x0200#16
  i := 0#16
  sp := 0#8
  stack := Vector.replicate 16 0#16
  dt := 0#8
  st := 0#8
  mem := []
  fb := Vector.replicate 32 0#64
  key := Vector.replicate 16 false
  fault := none
  cfg := c
  draws := 0
  schedule := []

/-- The machine right after reset, with the default parameters (00_scope.md R7; log entries 1, 2, 4). -/
def State.reset : State := State.initial defaultConfig

end Sys2Proof.Machine
end

