-- ==== Sys2Proof/Machine/Ops.lean ====
section
/-! DEFINITION. The named operations over memory, registers, framebuffer, keys and stack (00_scope.md R12), the default pc
advance, the fetch, and raising a fault. -/

namespace Sys2Proof.Machine

/-! ## Memory -/

/-- What an address nothing has written reads as: its content after `init`, the font at 0x050 to 0x09F and zero elsewhere
(20_memory.md R51, 10_state.md R38). -/
def Memory.background (font : Vector Byte 80) (a : Nat) : Byte :=
  if h : fontBase ≤ a ∧ a < fontBase + fontSize then font[a - fontBase]'(by
    have : fontSize = 80 := rfl
    omega)
  else 0#8

/-- The byte listed for an address. -/
def Memory.listed : Memory → Nat → Option Byte
  | [], _ => none
  | (b, w) :: m, a => if b = a then some w else Memory.listed m a

/-- Put a pair into a list with rising addresses. -/
def Memory.insert (a : Nat) (b : Byte) : Memory → Memory
  | [] => [(a, b)]
  | (c, w) :: m =>
    if a < c then (a, b) :: (c, w) :: m
    else if a = c then (a, b) :: m
    else (c, w) :: Memory.insert a b m

/-- Take an address out of the list. -/
def Memory.erase (a : Nat) (m : Memory) : Memory := m.filter fun c => c.1 != a

/-- The canonical form: addresses strictly rising and inside memory, no entry equal to what its address reads as unlisted. -/
abbrev Memory.wf (font : Vector Byte 80) (m : Memory) : Prop :=
  m.Pairwise (fun c d => c.1 < d.1) ∧ ∀ c ∈ m, c.1 < memSize ∧ c.2 ≠ Memory.background font c.1

/-- `MemRead(addr, 1)` (00_scope.md R12). -/
def Memory.read (font : Vector Byte 80) (m : Memory) (a : Nat) : Byte :=
  (Memory.listed m a).getD (Memory.background font a)

/-- `MemWrite(addr, 1, v)` (R12). An address above 0xFFF does not exist; every rule that writes checks its range first
(20_memory.md R55), so the last case is never reached (log entry 8). -/
def Memory.write (font : Vector Byte 80) (m : Memory) (a : Nat) (b : Byte) : Memory :=
  if a < memSize then
    if b = Memory.background font a then Memory.erase a m else Memory.insert a b m
  else m

/-- Stores at rising addresses from `a` up (20_memory.md R54, R58). -/
def Memory.writeList (font : Vector Byte 80) (m : Memory) (a : Nat) : List Byte → Memory
  | [] => m
  | b :: bs => Memory.writeList font (Memory.write font m a b) (a + 1) bs

/-- The byte at an address. -/
def State.readByte (s : State) (a : Nat) : Byte := Memory.read s.cfg.font s.mem a

/-- Store a byte at an address. -/
def State.writeByte (s : State) (a : Nat) (b : Byte) : State :=
  { s with mem := Memory.write s.cfg.font s.mem a b }

/-- Store bytes at rising addresses from `a` up. -/
def State.writeBytes (s : State) (a : Nat) (bs : List Byte) : State :=
  { s with mem := Memory.writeList s.cfg.font s.mem a bs }

/-! ## Registers -/

/-- `V[x]`. -/
def State.reg (s : State) (x : RegIx) : Byte := s.v[x.val]

/-- `V[x] <- b`. -/
def State.setReg (s : State) (x : RegIx) (b : Byte) : State := { s with v := s.v.set x.val b }

/-- `VF`, the flag output (10_state.md R22). -/
abbrev vf : RegIx := 15

/-- `VF <- b`. -/
def State.setVf (s : State) (b : Byte) : State := s.setReg vf b

/-- `V[k] <- MemRead(base + k, 1)` for every k up to and including x (48_index_memory.md R195). -/
def State.loadRegs (s : State) (base : Nat) (x : RegIx) : State :=
  { s with v := Vector.ofFn fun k : Fin 16 => if k ≤ x then s.readByte (base + k.val) else s.reg k }

/-- The values of V0 to Vx, in order (48_index_memory.md R193, R194). -/
def State.regsUpTo (s : State) (x : RegIx) : List Byte := s.v.toList.take (x.val + 1)

/-- `I <- w`. -/
def State.setI (s : State) (w : Word) : State := { s with i := w }

/-- `DT <- b`. -/
def State.setDt (s : State) (b : Byte) : State := { s with dt := b }

/-- `ST <- b`. -/
def State.setSt (s : State) (b : Byte) : State := { s with st := b }

/-! ## Program counter -/

/-- `pc <- w`. -/
def State.setPc (s : State) (w : Word) : State := { s with pc := w }

/-- Add 2 to pc, kept to 16 bits: the default advance (40_cycle_dispatch.md R102) and the step of a skip (42_skip.md). -/
def State.advance (s : State) : State := s.setPc (s.pc + 2#16)

/-- A skip: add 2 to pc when the condition holds (42_skip.md R120 to R123, 46_keypad.md R170, R171). -/
def State.skipIf (s : State) (c : Bool) : State := if c then s.advance else s

/-- Whether a fetch at pc lies outside memory (40_cycle_dispatch.md R103). -/
def State.fetchOutside (s : State) : Bool := lastFetch < s.pc.toNat

/-- `Fetch(pc)`, big-endian (40_cycle_dispatch.md R101). -/
def State.fetchWord (s : State) : Word :=
  wordOfBytes (s.readByte s.pc.toNat) (s.readByte (s.pc.toNat + 1))

/-! ## Call stack -/

/-- `stack[k]`. -/
def State.slot (s : State) (k : Fin 16) : Word := s.stack[k.val]

/-- `stack[k] <- w`. -/
def State.setSlot (s : State) (k : Fin 16) (w : Word) : State := { s with stack := s.stack.set k.val w }

/-- `sp <- b`. -/
def State.setSp (s : State) (b : Byte) : State := { s with sp := b }

/-! ## Framebuffer and keypad -/

/-- `FbRead(x, y)`; a position off the grid holds no pixel. -/
def fbPixel (fb : Vector (BitVec 64) 32) (x y : Nat) : Bool :=
  if h : y < 32 then fb[y].getLsbD x else false

/-- `FbWrite(x, y, FbRead(x, y) ^ 1)` on the grid (45_display.md R162). -/
def flipPixel (fb : Vector (BitVec 64) 32) (x y : Nat) : Vector (BitVec 64) 32 :=
  if h : y < 32 then fb.set y (fb[y] ^^^ BitVec.twoPow 64 x) else fb

/-- Draw pixels one after the other: a pixel that is on before its XOR is a collision (R162). The answer is the framebuffer
and whether there was a collision. -/
def drawPixels (fb : Vector (BitVec 64) 32) (hit : Bool) : List (Nat × Nat) → Vector (BitVec 64) 32 × Bool
  | [] => (fb, hit)
  | (x, y) :: ps => drawPixels (flipPixel fb x y) (hit || fbPixel fb x y) ps

/-- Every cell off (45_display.md R160). -/
def clearScreen : Vector (BitVec 64) 32 := Vector.replicate 32 0#64

/-- `FbRead(x, y)` of the state. -/
def State.pixel (s : State) (x y : Nat) : Bool := fbPixel s.fb x y

/-- Replace the framebuffer. -/
def State.setFb (s : State) (fb : Vector (BitVec 64) 32) : State := { s with fb := fb }

/-- `Key(k)`: true is pressed. -/
def State.keyDown (s : State) (k : KeyIx) : Bool := s.key[k.val]

/-- The least pressed key, if any (46_keypad.md R173). -/
def State.firstKey (s : State) : Option KeyIx := (List.finRange 16).find? fun k => s.keyDown k

/-! ## Faults -/

/-- `raise Fault(code)` (60_exceptions.md R201): the latch takes the code, the address of the instruction and its word; pc
is the address of the instruction; nothing else changes. `s` is the state in which the cycle began, so its pc is that
address and the default advance needs no undoing (log entry 7). The spec has no return from a fault (R206, R210): only
`init` clears the latch. -/
def State.raiseFault (s : State) (code : FaultCode) (opcode : Word) : State :=
  { s with fault := some { code := code, addr := s.pc, opcode := opcode } }

/-- The number of a fault code (60_exceptions.md R202). -/
def FaultCode.number : FaultCode → Nat
  | .fetchOob => 1
  | .memOob => 2
  | .stackOverflow => 3
  | .stackUnderflow => 4
  | .keyOob => 5

end Sys2Proof.Machine
end

