-- ==== Sys2Proof/Machine/Operands.lean ====
section
/-! DEFINITION. The operand forms: the one data addressing mode, its bound, the jump target with offset, the glyph address,
the decimal digits and the pixels of a sprite. -/

namespace Sys2Proof.Machine

/-- The effective address: I plus an offset, in unbounded arithmetic (48_index_memory.md R197). -/
def State.dataAddr (s : State) (offset : Nat) : Nat := s.i.toNat + offset

/-- Whether the `count` bytes from I up do not all lie in memory (20_memory.md R55). No bytes never do. -/
def State.dataOutside (s : State) (count : Nat) : Bool := 0 < count && memSize < s.dataAddr count

/-- `trunc_16(nnn + V0)` (41_flow.md R114). -/
def State.offsetTarget (s : State) (nnn : Addr12) : Word := addr16 nnn + zext16 (s.reg 0)

/-- `0x050 + 5 * (b & 0x0F)` (48_index_memory.md R191). -/
def glyphAddr (b : Byte) : Word := BitVec.ofNat 16 (fontBase + glyphBytes * (b &&& 0x0F#8).toNat)

/-- Hundreds, tens and ones, most significant first (48_index_memory.md R192). -/
def bcdDigits (b : Byte) : List Byte :=
  [BitVec.ofNat 8 (b.toNat / 100), BitVec.ofNat 8 (b.toNat / 10 % 10), BitVec.ofNat 8 (b.toNat % 10)]

/-- The column of a sprite's origin (45_display.md R161). -/
def originX (b : Byte) : Nat := b.toNat % fbW

/-- The row of a sprite's origin (R161, 90_conflicts.md C2). -/
def originY (b : Byte) : Nat := b.toNat % fbH

/-- The pixels of one sprite row that are on and on the grid: column c is bit 7 - c of the byte (R161); a pixel past the
right edge is discarded (R162). -/
def rowPixels (xpos ty : Nat) (b : Byte) : List (Nat × Nat) :=
  (List.range 8).filterMap fun c =>
    if b.getLsbD (7 - c) && xpos + c < fbW && ty < fbH then some (xpos + c, ty) else none

/-- The pixels an n-row sprite at I toggles, row by row (R162). -/
def State.spritePixels (s : State) (xpos ypos n : Nat) : List (Nat × Nat) :=
  (List.range n).flatMap fun r => rowPixels xpos (ypos + r) (s.readByte (s.dataAddr r))

end Sys2Proof.Machine
end

