-- ==== Sys2Proof/Machine/Flags.lean ====
section
/-! DEFINITION. The values the flag-writing instructions put into VF (10_state.md R22). -/

namespace Sys2Proof.Machine

/-- A flag as a byte: 1 or 0. -/
def flagByte (c : Bool) : Byte := if c then 1#8 else 0#8

/-- The flag of 8xy4 (44_alu.md R145): the carry out of bit 7, or 1 when the parameter says so. -/
def addFlag (mode : AddVfMode) (a b : Byte) : Byte :=
  match mode with
  | .carry => flagByte (255 < a.toNat + b.toNat)
  | .alwaysOne => 1#8

/-- The flag of 8xy5 and 8xy7 (R146, R148): the minuend is strictly greater, unsigned. -/
def greaterFlag (a b : Byte) : Byte := flagByte (b.toNat < a.toNat)

/-- The flag of 8xy6 (R147): the bit shifted out on the right. -/
def shrFlag (a : Byte) : Byte := a &&& 1#8

/-- The flag of 8xyE (R149): the bit shifted out on the left. -/
def shlFlag (a : Byte) : Byte := a >>> 7

/-- The flag of Dxyn (45_display.md R162): whether a drawn pixel hit a cell that was on. -/
def collisionFlag (hit : Bool) : Byte := flagByte hit

end Sys2Proof.Machine
end

