-- ==== Sys2Proof/Machine/Alu.lean ====
section
/-! DEFINITION. The 8-bit ALU family (44_alu.md). A flag-writing instruction writes VF first and its result last; the result
of 8xy5, 8xy6, 8xy7 and 8xyE reads the registers after the flag write (R140, log entry 13). -/

namespace Sys2Proof.Machine

/-- 8xy0 (R141). -/
def execLdVy (x y : RegIx) (s : State) : Host.Outcome State Fault Refusal :=
  .next (s.advance.setReg x (s.reg y))

/-- 8xy1 (R142): no flag. -/
def execOrVy (x y : RegIx) (s : State) : Host.Outcome State Fault Refusal :=
  .next (s.advance.setReg x (s.reg x ||| s.reg y))

/-- 8xy2 (R143): no flag. -/
def execAndVy (x y : RegIx) (s : State) : Host.Outcome State Fault Refusal :=
  .next (s.advance.setReg x (s.reg x &&& s.reg y))

/-- 8xy3 (R144): no flag. -/
def execXorVy (x y : RegIx) (s : State) : Host.Outcome State Fault Refusal :=
  .next (s.advance.setReg x (s.reg x ^^^ s.reg y))

/-- 8xy4 (R145): both operands are read before any write. -/
def execAddVy (x y : RegIx) (s : State) : Host.Outcome State Fault Refusal :=
  .next ((s.advance.setVf (addFlag s.cfg.addVfMode (s.reg x) (s.reg y))).setReg x (s.reg x + s.reg y))

/-- Write the flag, then the result computed from the registers as they then are (R140). -/
def flagThenResult (s : State) (x : RegIx) (flag : Byte) (result : State → Byte) : State :=
  (s.advance.setVf flag).setReg x (result (s.advance.setVf flag))

/-- 8xy5 (R146). -/
def execSub (x y : RegIx) (s : State) : Host.Outcome State Fault Refusal :=
  .next (flagThenResult s x (greaterFlag (s.reg x) (s.reg y)) fun t => t.reg x - t.reg y)

/-- 8xy6 (R147): the y field is ignored. -/
def execShr (x _y : RegIx) (s : State) : Host.Outcome State Fault Refusal :=
  .next (flagThenResult s x (shrFlag (s.reg x)) fun t => t.reg x >>> 1)

/-- 8xy7 (R148). -/
def execSubn (x y : RegIx) (s : State) : Host.Outcome State Fault Refusal :=
  .next (flagThenResult s x (greaterFlag (s.reg y) (s.reg x)) fun t => t.reg y - t.reg x)

/-- 8xyE (R149): the y field is ignored. -/
def execShl (x _y : RegIx) (s : State) : Host.Outcome State Fault Refusal :=
  .next (flagThenResult s x (shlFlag (s.reg x)) fun t => t.reg x <<< 1)

/-- 8xyN with no operation of its own (R150): nothing but the default advance. -/
def execReserved8 (_x _y _n : Fin 16) (s : State) : Host.Outcome State Fault Refusal := .next s.advance

end Sys2Proof.Machine
end

