-- ==== Sys2Proof/Machine/Display.lean ====
section
/-! DEFINITION. Clear screen and sprite draw (45_display.md). -/

namespace Sys2Proof.Machine

/-- 00E0 (R160). -/
def execCls (s : State) : Host.Outcome State Fault Refusal := .next (s.advance.setFb clearScreen)

/-- The framebuffer and the collision of drawing n rows from I at the origin Vx, Vy (R162). -/
def State.drawn (s : State) (x y n : Fin 16) : Vector (BitVec 64) 32 × Bool :=
  drawPixels s.fb false (s.spritePixels (originX (s.reg x)) (originY (s.reg y)) n.val)

/-- Dxyn (R162). The coordinates are read before VF is written (log entry 14); the range of sprite bytes is checked before
anything is written (20_memory.md R55). -/
def execDrw (x y n : Fin 16) (s : State) : Host.Outcome State Fault Refusal :=
  if s.dataOutside n.val then .next (s.raiseFault .memOob (encode (.drw x y n)))
  else .next ((s.advance.setFb (s.drawn x y n).1).setVf (collisionFlag (s.drawn x y n).2))

end Sys2Proof.Machine
end

