-- ==== Sys2Proof/Machine/Flow.lean ====
section
/-! DEFINITION. Control transfer: SYS, RET, JP, CALL, JP_V0 (41_flow.md). Each meaning starts from the state in which the
cycle began and makes the default advance itself (log entry 7). -/

namespace Sys2Proof.Machine

/-- 0nnn (R110): nothing but the default advance. -/
def execSys (_nnn : Addr12) (s : State) : Host.Outcome State Fault Refusal := .next s.advance

/-- 00EE (R111). With no call outstanding it raises STACK_UNDERFLOW (60_exceptions.md R205). The slot keeps its content.
sp above 15 names no slot: no run reaches it and the model stops by name (log entry 6). -/
def execRet (s : State) : Host.Outcome State Fault Refusal :=
  if s.sp = 0#8 then .next (s.raiseFault .stackUnderflow (encode .ret))
  else if h : s.sp.toNat < 16 then .next ((s.setPc (s.slot ⟨s.sp.toNat, h⟩)).setSp (s.sp - 1#8))
  else .fault .stackSlotMissing

/-- 1nnn (R112). -/
def execJp (nnn : Addr12) (s : State) : Host.Outcome State Fault Refusal := .next (s.setPc (addr16 nnn))

/-- 2nnn (R113): pre-increment, push the address after the call, jump. Fifteen calls nest; the sixteenth raises
STACK_OVERFLOW (60_exceptions.md R204). -/
def execCall (nnn : Addr12) (s : State) : Host.Outcome State Fault Refusal :=
  if h : s.sp.toNat < 15 then
    .next (((s.setSp (s.sp + 1#8)).setSlot ⟨s.sp.toNat + 1, Nat.succ_lt_succ h⟩ s.advance.pc).setPc (addr16 nnn))
  else .next (s.raiseFault .stackOverflow (encode (.call nnn)))

/-- Bnnn (R114): the 16-bit sum of nnn and V0. -/
def execJpV0 (nnn : Addr12) (s : State) : Host.Outcome State Fault Refusal := .next (s.setPc (s.offsetTarget nnn))

end Sys2Proof.Machine
end

