-- ==== Sys2Proof/Machine/IndexMemory.lean ====
section
/-! DEFINITION. Address-register arithmetic, font lookup, decimal store, block store and load, and the reserved words of
family F (48_index_memory.md). A range that leaves memory raises MEM_OOB before anything is written (20_memory.md R55). -/

namespace Sys2Proof.Machine

/-- Fx1E (R190): wraps at 16 bits, writes no flag. -/
def execAddI (x : RegIx) (s : State) : Host.Outcome State Fault Refusal :=
  .next (s.advance.setI (s.i + zext16 (s.reg x)))

/-- Fx29 (R191). -/
def execLdF (x : RegIx) (s : State) : Host.Outcome State Fault Refusal :=
  .next (s.advance.setI (glyphAddr (s.reg x)))

/-- Fx33 (R192). -/
def execLdB (x : RegIx) (s : State) : Host.Outcome State Fault Refusal :=
  if s.dataOutside 3 then .next (s.raiseFault .memOob (encode (.ldB x)))
  else .next (s.advance.writeBytes (s.dataAddr 0) (bcdDigits (s.reg x)))

/-- Fx55 (R194): V0 to Vx from I up; I is unchanged (R193, log entry 16). -/
def execStRegs (x : RegIx) (s : State) : Host.Outcome State Fault Refusal :=
  if s.dataOutside (x.val + 1) then .next (s.raiseFault .memOob (encode (.stRegs x)))
  else .next (s.advance.writeBytes (s.dataAddr 0) (s.regsUpTo x))

/-- Fx65 (R195): V0 to Vx from I up; I is unchanged (R193, log entry 16). -/
def execLdRegs (x : RegIx) (s : State) : Host.Outcome State Fault Refusal :=
  if s.dataOutside (x.val + 1) then .next (s.raiseFault .memOob (encode (.ldRegs x)))
  else .next (s.advance.loadRegs (s.dataAddr 0) x)

/-- Fxkk with no operation of its own (R196): nothing but the default advance. -/
def execReservedF (_x : RegIx) (_kk : Byte) (s : State) : Host.Outcome State Fault Refusal := .next s.advance

end Sys2Proof.Machine
end

