-- ==== Sys2Proof/Machine/Keypad.lean ====
section
/-! DEFINITION. The keypad instructions and the reserved words of family E (46_keypad.md). -/

namespace Sys2Proof.Machine

/-- Ex9E (R170): skip if the key Vx is pressed; an index above 15 raises KEY_OOB. -/
def execSkp (x : RegIx) (s : State) : Host.Outcome State Fault Refusal :=
  if h : (s.reg x).toNat < 16 then .next (s.advance.skipIf (s.keyDown ⟨(s.reg x).toNat, h⟩))
  else .next (s.raiseFault .keyOob (encode (.skp x)))

/-- ExA1 (R171): skip if the key Vx is not pressed; an index above 15 raises KEY_OOB. -/
def execSknp (x : RegIx) (s : State) : Host.Outcome State Fault Refusal :=
  if h : (s.reg x).toNat < 16 then .next (s.advance.skipIf (!s.keyDown ⟨(s.reg x).toNat, h⟩))
  else .next (s.raiseFault .keyOob (encode (.sknp x)))

/-- Fx0A (R173): the least pressed key into Vx; with none pressed pc steps back onto this instruction. -/
def execLdVxK (x : RegIx) (s : State) : Host.Outcome State Fault Refusal :=
  match s.firstKey with
  | some k => .next (s.advance.setReg x (BitVec.ofNat 8 k.val))
  | none => .next (s.advance.setPc (s.advance.pc - 2#16))

/-- Exkk with no operation of its own (R172): nothing but the default advance; Vx is not read. -/
def execReservedE (_x : RegIx) (_kk : Byte) (s : State) : Host.Outcome State Fault Refusal := .next s.advance

end Sys2Proof.Machine
end

