-- ==== Sys2Proof/Machine/LoadImm.lean ====
section
/-! DEFINITION. Immediate loads and adds, the I load and the random byte (43_load_imm.md). -/

namespace Sys2Proof.Machine

/-- 6xkk (R130). -/
def execLdKk (x : RegIx) (kk : Byte) (s : State) : Host.Outcome State Fault Refusal :=
  .next (s.advance.setReg x kk)

/-- 7xkk (R131): wraps at 8 bits, writes no flag. -/
def execAddKk (x : RegIx) (kk : Byte) (s : State) : Host.Outcome State Fault Refusal :=
  .next (s.advance.setReg x (s.reg x + kk))

/-- Annn (R132). -/
def execLdI (nnn : Addr12) (s : State) : Host.Outcome State Fault Refusal :=
  .next (s.advance.setI (addr16 nnn))

/-- Cxkk (R134): a fresh draw (R133, log entry 4) under the mask kk. -/
def execRnd (x : RegIx) (kk : Byte) (s : State) : Host.Outcome State Fault Refusal :=
  .next { s.advance.setReg x (Config.randomByte s.draws &&& kk) with draws := s.draws + 1 }

end Sys2Proof.Machine
end

