-- ==== Sys2Proof/Machine/Skip.lean ====
section
/-! DEFINITION. The conditional skips on registers and the reserved words of families 5 and 9 (42_skip.md). -/

namespace Sys2Proof.Machine

/-- 3xkk (R120). -/
def execSeKk (x : RegIx) (kk : Byte) (s : State) : Host.Outcome State Fault Refusal :=
  .next (s.advance.skipIf (s.reg x == kk))

/-- 4xkk (R121). -/
def execSneKk (x : RegIx) (kk : Byte) (s : State) : Host.Outcome State Fault Refusal :=
  .next (s.advance.skipIf (s.reg x != kk))

/-- 5xy0 (R122). -/
def execSeVy (x y : RegIx) (s : State) : Host.Outcome State Fault Refusal :=
  .next (s.advance.skipIf (s.reg x == s.reg y))

/-- 9xy0 (R123). -/
def execSneVy (x y : RegIx) (s : State) : Host.Outcome State Fault Refusal :=
  .next (s.advance.skipIf (s.reg x != s.reg y))

/-- 5xyN, N not 0 (R124): a no-operation, or 5xy0 under `ignore`. -/
def execReserved5 (x y _n : Fin 16) (s : State) : Host.Outcome State Fault Refusal :=
  match s.cfg.lowNibble59 with
  | .nop => .next s.advance
  | .ignore => .next (s.advance.skipIf (s.reg x == s.reg y))

/-- 9xyN, N not 0 (R124): a no-operation, or 9xy0 under `ignore`. -/
def execReserved9 (x y _n : Fin 16) (s : State) : Host.Outcome State Fault Refusal :=
  match s.cfg.lowNibble59 with
  | .nop => .next s.advance
  | .ignore => .next (s.advance.skipIf (s.reg x != s.reg y))

end Sys2Proof.Machine
end

