-- ==== Sys2Proof/Machine/TimerOps.lean ====
section
/-! DEFINITION. The timer instructions (47_timer_ops.md). Which code does which transfer is PRESUMED (log entry 23). -/

namespace Sys2Proof.Machine

/-- Fx07 (R180). -/
def execLdVxDt (x : RegIx) (s : State) : Host.Outcome State Fault Refusal := .next (s.advance.setReg x s.dt)

/-- Fx15 (R181). -/
def execLdDtVx (x : RegIx) (s : State) : Host.Outcome State Fault Refusal := .next (s.advance.setDt (s.reg x))

/-- Fx18 (R182). -/
def execLdStVx (x : RegIx) (s : State) : Host.Outcome State Fault Refusal := .next (s.advance.setSt (s.reg x))

end Sys2Proof.Machine
end

