-- ==== Sys2Proof/Machine/Cycle.lean ====
section
/-! DEFINITION. One instruction cycle (40_cycle_dispatch.md). -/

namespace Sys2Proof.Machine

/-- `cycle()` (R100): nothing when the engine is stopped (R104); FETCH_OOB, recorded with the word 0, when the fetch lies
outside memory (R103); else fetch, decode and execute one instruction (R101, R105, R106). -/
def cycle (s : State) : Host.Outcome State Fault Refusal :=
  match s.fault with
  | some _ => .next s
  | none =>
    if s.fetchOutside then .next (s.raiseFault .fetchOob 0#16)
    else exec (decodeWord s.fetchWord) s

end Sys2Proof.Machine
end

