-- ==== Sys2Proof/Machine/HostOps.lean ====
section
/-! DEFINITION. The operations the host issues (10_state.md R40) and what each answers it. -/

namespace Sys2Proof.Machine

/-- `init()` (70_reset_and_hazards.md R230, R231): the same state from any state. The fields that are not the machine's
(parameters, draws, the host's schedule) stay (log entry 10). -/
def State.init (s : State) : State :=
  { State.initial s.cfg with draws := s.draws, schedule := s.schedule }

/-- Whether `load` accepts a buffer (20_memory.md R66). -/
def loadAccepts (buffer : List Byte) : Bool := buffer.length ≤ progMax

/-- `load(buffer, length)` (R66): the bytes from 0x200 up, or no change at all. -/
def State.load (s : State) (buffer : List Byte) : State :=
  if loadAccepts buffer then s.writeBytes progBase buffer else s

/-- One timer, one tick, floored at 0 (60_exceptions.md R215). -/
def tickTimer (t : Byte) : Byte := if t = 0#8 then 0#8 else t - 1#8

/-- `tick_timers()` (R215). -/
def State.tickTimers (s : State) : State := (s.setDt (tickTimer s.dt)).setSt (tickTimer s.st)

/-- `set_key(index, pressed)` (60_exceptions.md R219). -/
def State.setKey (s : State) (k : KeyIx) (pressed : Bool) : State := { s with key := s.key.set k.val pressed }

/-- Perform one operation of the host. All but `cycle` act the same on a stopped engine (60_exceptions.md R208); the reads
change nothing (R222, R223). -/
def perform (op : HostOp) (s : State) : Host.Outcome State Fault Refusal :=
  match op with
  | .init => .next s.init
  | .load buffer => .next (s.load buffer)
  | .cycle => cycle s
  | .tickTimers => .next s.tickTimers
  | .setKey k pressed => .next (s.setKey k pressed)
  | .readFramebuffer => .next s
  | .readTimers => .next s

/-- What an operation answers the host (10_state.md R40, the column "outputs"). -/
inductive Reply where
  | nothing
  | loaded (success : Bool)
  /-- the 2048 cells, row by row (60_exceptions.md R222) -/
  | framebuffer (cells : List Bool)
  | timers (dt st : Byte)
  deriving DecidableEq, Repr

/-- The 2048 cells in the order of their index y * 64 + x (R222, 10_state.md R30). -/
def State.cells (s : State) : List Bool :=
  (List.range 2048).map fun k => s.pixel (k % 64) (k / 64)

/-- The answer to an operation issued in a state. -/
def reply (op : HostOp) (s : State) : Reply :=
  match op with
  | .load buffer => .loaded (loadAccepts buffer)
  | .readFramebuffer => .framebuffer s.cells
  | .readTimers => .timers s.dt s.st
  | .init => .nothing
  | .cycle => .nothing
  | .tickTimers => .nothing
  | .setKey _ _ => .nothing

end Sys2Proof.Machine
end

