-- ==== Sys2Proof/Machine/Step.lean ====
section
/-! DEFINITION. One step: the host's next operation (10_state.md R41, R42), and how an instruction is placed where the next
step fetches it. -/

namespace Sys2Proof.Machine

/-- One step is one operation of the host: the oldest of the schedule, or `cycle` when none is listed (log entry 1). -/
def step (s : State) : Host.Outcome State Fault Refusal :=
  match s.schedule with
  | [] => cycle s
  | op :: rest => perform op { s with schedule := rest }

/-- `s` with the table's word `w` stored where the next step fetches, so that the very next step runs it (log entry 9). The
fetch needs a running engine, the host to issue `cycle`, and a pc from which two bytes lie in memory; in a state that has
all three (the state after reset is one) only the two bytes change. -/
def State.withFetchWord (s : State) (nbits w : Nat) : State :=
  { s with
    pc := if s.fetchOutside then 0x0200#16 else s.pc
    fault := none
    schedule := [] }.writeBytes
    (if s.fetchOutside then progBase else s.pc.toNat)
    [hiByte (BitVec.ofNat 16 (w % 2 ^ nbits)), loByte (BitVec.ofNat 16 (w % 2 ^ nbits))]

end Sys2Proof.Machine
end

