-- ==== Sys2Proof/Safety.lean ====
section
/-! DEFINITION. What statements are made of: the frame of an instruction, the invariant of reachable states, and the spec's
tables (who faults, where pc goes, which registers are written, which row a word selects) written from the spec beside the
machine, for the machine to be compared with. -/

namespace Sys2Proof.Machine

/-! ## Frames -/

/-- What an instruction may write, beside pc. Whatever is not listed stays. -/
structure MayWrite where
  /-- general registers -/
  regs : RegIx → Prop := fun _ => False
  /-- bytes of memory -/
  bytes : Nat → Prop := fun _ => False
  /-- the address register I -/
  index : Prop := False
  /-- the stack pointer -/
  sp : Prop := False
  /-- slots of the call stack -/
  slots : Fin 16 → Prop := fun _ => False
  /-- the delay timer -/
  dt : Prop := False
  /-- the sound timer -/
  st : Prop := False
  /-- pixels, by column and row -/
  pixels : Nat → Nat → Prop := fun _ _ => False
  /-- the model's own counter of draws -/
  draws : Prop := False

/-- `t` differs from `s` in pc and in what `w` lists, and in nothing else. No instruction that completes writes a key, the
fault latch, a parameter or the host's schedule. -/
structure Frame (w : MayWrite) (s t : State) : Prop where
  regs : ∀ r, ¬ w.regs r → t.reg r = s.reg r
  bytes : ∀ a, ¬ w.bytes a → t.readByte a = s.readByte a
  index : ¬ w.index → t.i = s.i
  sp : ¬ w.sp → t.sp = s.sp
  slots : ∀ k, ¬ w.slots k → t.slot k = s.slot k
  dt : ¬ w.dt → t.dt = s.dt
  st : ¬ w.st → t.st = s.st
  pixels : ∀ x y, ¬ w.pixels x y → t.pixel x y = s.pixel x y
  draws : ¬ w.draws → t.draws = s.draws
  keys : ∀ k, t.keyDown k = s.keyDown k
  fault : t.fault = s.fault
  cfg : t.cfg = s.cfg
  schedule : t.schedule = s.schedule

/-- The whole effect of a fault raised by instruction `i` (60_exceptions.md R201): the latch holds the code, the address and
the word, and everything else, pc with it, is as when the cycle began. -/
def Latches (code : FaultCode) (i : Instr) (s t : State) : Prop :=
  t = { s with fault := some { code := code, addr := s.pc, opcode := encode i } }

/-- The word numbered `w` is the instruction `i`, read and written. -/
def Encodes (w : Nat) (i : Instr) : Prop := decodeTableWord 16 w = some i ∧ (encode i).toNat = w

/-! ## The invariant of reachable states (10_state.md R43) -/

/-- How a set latch fits the machine it stopped: it holds the machine's pc; the fault is a fetch fault exactly when the fetch
lies outside memory; a fetch fault records the word 0 (60_exceptions.md R201, R202). -/
def FaultRecord.Fits (f : FaultRecord) (pc : Word) : Prop :=
  f.addr = pc ∧ (f.code = .fetchOob ↔ 0x0FFE < pc.toNat) ∧ (f.code = .fetchOob → f.opcode = 0#16)

/-- What holds in every state reached from `init`: sp indexes the stack (R25), slot 0 is never written (R26), every return
address is at most 0x1000 (R43), pc never exceeds the largest target of Bnnn (41_flow.md R114), memory is in canonical form
(the model's choice, log entry 24), and a set latch fits the machine (the spec's decision D27, log entry 11). -/
structure State.Inv (s : State) : Prop where
  sp_le : s.sp.toNat ≤ 15
  slot_zero : s.slot 0 = 0#16
  slot_le : ∀ k, (s.slot k).toNat ≤ 0x1000
  pc_le : s.pc.toNat ≤ 0x10FE
  mem_wf : Memory.wf s.cfg.font s.mem
  fault_fits : ∀ f, s.fault = some f → f.Fits s.pc

/-! ## The spec's tables -/

/-- The fault an instruction raises in a state, by the table of 60_exceptions.md R202 (without the fetch fault). -/
def faultOf (i : Instr) (s : State) : Option FaultCode :=
  match i with
  | .drw _ _ n => if 1 ≤ n.val ∧ 0xFFF < s.i.toNat + n.val - 1 then some .memOob else none
  | .ldB _ => if 0xFFF < s.i.toNat + 2 then some .memOob else none
  | .stRegs x | .ldRegs x => if 0xFFF < s.i.toNat + x.val then some .memOob else none
  | .call _ => if 15 ≤ s.sp.toNat then some .stackOverflow else none
  | .ret => if s.sp.toNat = 0 then some .stackUnderflow else none
  | .skp x | .sknp x => if 15 < (s.reg x).toNat then some .keyOob else none
  | _ => none

/-- Whether a skip's condition holds (10_state.md R23, 42_skip.md, 46_keypad.md), with the reserved words of families 5 and 9
as their parameter says (42_skip.md R124). -/
def skips (i : Instr) (s : State) : Prop :=
  match i with
  | .seKk x kk => s.reg x = kk
  | .sneKk x kk => s.reg x ≠ kk
  | .seVy x y => s.reg x = s.reg y
  | .sneVy x y => s.reg x ≠ s.reg y
  | .reserved5 x y _ => s.cfg.lowNibble59 = .ignore ∧ s.reg x = s.reg y
  | .reserved9 x y _ => s.cfg.lowNibble59 = .ignore ∧ s.reg x ≠ s.reg y
  | .skp x => ∃ k : KeyIx, k.val = (s.reg x).toNat ∧ s.keyDown k = true
  | .sknp x => ∃ k : KeyIx, k.val = (s.reg x).toNat ∧ s.keyDown k = false
  | _ => False

/-- Where pc is after an instruction that raised no fault, by the table of 10_state.md R23. -/
def PcAfter (i : Instr) (s t : State) : Prop :=
  match i with
  | .jp nnn | .call nnn => t.pc.toNat = nnn.toNat
  | .ret => ∃ k : Fin 16, k.val = s.sp.toNat ∧ t.pc = s.slot k
  | .jpV0 nnn => t.pc.toNat = nnn.toNat + (s.reg 0).toNat
  | .ldVxK _ => ((∀ k, s.keyDown k = false) → t.pc = s.pc) ∧ ((∃ k, s.keyDown k = true) → t.pc = s.pc + 2#16)
  | i => (skips i s → t.pc = s.pc + 4#16) ∧ (¬ skips i s → t.pc = s.pc + 2#16)

/-- The registers an instruction may write: its destination, and VF by the list of 10_state.md R22. -/
def writesReg (i : Instr) (r : RegIx) : Prop :=
  match i with
  | .ldKk x _ | .addKk x _ | .rnd x _ | .ldVy x _ | .orVy x _ | .andVy x _ | .xorVy x _ | .ldVxDt x | .ldVxK x => r = x
  | .addVy x _ | .sub x _ | .shr x _ | .subn x _ | .shl x _ => r = x ∨ r = 15
  | .drw _ _ _ => r = 15
  | .ldRegs x => r ≤ x
  | _ => False

/-- Pixel (tx, ty) is an on pixel of the n-row sprite at I drawn at the origin (Vx mod 64, Vy mod 32) (45_display.md R161). -/
def SpriteOn (s : State) (x y n : Fin 16) (tx ty : Nat) : Prop :=
  (s.reg x).toNat % 64 ≤ tx ∧ tx < (s.reg x).toNat % 64 + 8 ∧
  (s.reg y).toNat % 32 ≤ ty ∧ ty < (s.reg y).toNat % 32 + n.val ∧
  (s.readByte (s.i.toNat + (ty - (s.reg y).toNat % 32))).getLsbD (7 - (tx - (s.reg x).toNat % 64)) = true

/-- The rows of the opcode table in its order: match and mask (30_encoding.md R84, R85; spec/opcode_table.json). -/
def opcodeTable : List (Nat × Nat) :=
  [(0x00E0, 0xFFFF), (0x00EE, 0xFFFF), (0x0000, 0xF000), (0x1000, 0xF000), (0x2000, 0xF000), (0x3000, 0xF000),
   (0x4000, 0xF000), (0x5000, 0xF00F), (0x6000, 0xF000), (0x7000, 0xF000)] ++
  [(0x8000, 0xF00F), (0x8001, 0xF00F), (0x8002, 0xF00F), (0x8003, 0xF00F), (0x8004, 0xF00F), (0x8005, 0xF00F),
   (0x8006, 0xF00F), (0x8007, 0xF00F), (0x800E, 0xF00F), (0x9000, 0xF00F)] ++
  [(0xA000, 0xF000), (0xB000, 0xF000), (0xC000, 0xF000), (0xD000, 0xF000), (0xE09E, 0xF0FF), (0xE0A1, 0xF0FF),
   (0xF007, 0xF0FF), (0xF00A, 0xF0FF), (0xF015, 0xF0FF), (0xF018, 0xF0FF)] ++
  [(0xF01E, 0xF0FF), (0xF029, 0xF0FF), (0xF033, 0xF0FF), (0xF055, 0xF0FF), (0xF065, 0xF0FF), (0x5000, 0xF000),
   (0x8000, 0xF000), (0x9000, 0xF000), (0xE000, 0xF000), (0xF000, 0xF000)]

/-- The row of the opcode table an instruction is. -/
def tableRow : Instr → Nat
  | .cls => 0 | .ret => 1 | .sys _ => 2 | .jp _ => 3 | .call _ => 4 | .seKk _ _ => 5
  | .sneKk _ _ => 6 | .seVy _ _ => 7 | .ldKk _ _ => 8 | .addKk _ _ => 9
  | .ldVy _ _ => 10 | .orVy _ _ => 11 | .andVy _ _ => 12 | .xorVy _ _ => 13 | .addVy _ _ => 14 | .sub _ _ => 15
  | .shr _ _ => 16 | .subn _ _ => 17 | .shl _ _ => 18 | .sneVy _ _ => 19
  | .ldI _ => 20 | .jpV0 _ => 21 | .rnd _ _ => 22 | .drw _ _ _ => 23 | .skp _ => 24 | .sknp _ => 25
  | .ldVxDt _ => 26 | .ldVxK _ => 27 | .ldDtVx _ => 28 | .ldStVx _ => 29
  | .addI _ => 30 | .ldF _ => 31 | .ldB _ => 32 | .stRegs _ => 33 | .ldRegs _ => 34 | .reserved5 _ _ _ => 35
  | .reserved8 _ _ _ => 36 | .reserved9 _ _ _ => 37 | .reservedE _ _ => 38 | .reservedF _ _ => 39

/-- The word `w` matches the row. -/
def RowMatches (w : Nat) (row : Nat × Nat) : Prop := w &&& row.2 = row.1

end Sys2Proof.Machine
end

