-- ==== Sys2Proof/Certificates/Slice0/Obligations.lean ====
section
/-! DEFINITION. The statements for the provers. "D<n>" is a decision the spec marks as its own (92_eei_decisions.md), "log
entry n" is notes/assumptions/<n>.md. -/

open Sys2Proof Sys2Proof.Machine

/-! ## Encoding -/

/-- Decoding the two bytes of a well-formed instruction gives it back, whatever bytes follow. -/
def Obligations.DecodeOfEncodeIsIdentity : Prop :=
  ∀ (i : Instr) (rest : List Byte), wellFormed i = true → decodeBytes (encodeBytes i ++ rest) = .ok (i, rest)

/-- Every word decodes to a well-formed instruction whose word it is: no bit of a word is dropped (30_encoding.md R85, R88). -/
def Obligations.EncodeOfDecodeIsIdentity : Prop :=
  ∀ w : Word, wellFormed (decodeWord w) = true ∧ encode (decodeWord w) = w

/-- The decoder selects the row of the opcode table the spec selects: the word matches the row of its instruction, and every
other row it matches has a smaller mask (30_encoding.md R84, R88). -/
def Obligations.DecodeSelectsLargestMask : Prop :=
  ∀ (w : Word) (k : Nat) (row : Nat × Nat),
    (opcodeTable[tableRow (decodeWord w)]? = some row → RowMatches w.toNat row) ∧
    (opcodeTable[k]? = some row → RowMatches w.toNat row → k ≠ tableRow (decodeWord w) →
      ∃ own, opcodeTable[tableRow (decodeWord w)]? = some own ∧ row.2 < own.2)

/-- Words written out from the patterns of 30_encoding.md R84, one of each family. -/
def Obligations.SampleWordsDecode : Prop :=
  decodeBytes [0x00#8, 0xE0#8] = .ok (.cls, []) ∧
  decodeBytes [0x23#8, 0x45#8] = .ok (.call 0x345#12, []) ∧
  decodeBytes [0x31#8, 0x2A#8] = .ok (.seKk 1 0x2A#8, []) ∧
  decodeBytes [0x6A#8, 0x7F#8] = .ok (.ldKk 0xA 0x7F#8, []) ∧
  decodeBytes [0x81#8, 0x25#8] = .ok (.sub 1 2, []) ∧
  decodeBytes [0xD0#8, 0x12#8] = .ok (.drw 0 1 2, []) ∧
  decodeBytes [0xE2#8, 0x9E#8] = .ok (.skp 2, []) ∧
  decodeBytes [0xF3#8, 0x07#8] = .ok (.ldVxDt 3, []) ∧
  decodeBytes [0xF2#8, 0x65#8] = .ok (.ldRegs 2, []) ∧
  decodeBytes [0x81#8, 0x28#8] = .ok (.reserved8 1 2 8, []) ∧
  decodeBytes [0x81#8] = .error .truncated

/-! ## Control transfer (41_flow.md) -/

/-- SYS does nothing but the default advance (R110). -/
def Obligations.SysOnlyAdvances : Prop :=
  (∀ nnn : Addr12, nnn ≠ 0x0E0#12 → nnn ≠ 0x0EE#12 → Encodes nnn.toNat (.sys nnn)) ∧
  ∀ (nnn : Addr12) (s : State), ∃ t, exec (.sys nnn) s = .next t ∧ t.pc = s.pc + 2#16 ∧ Frame {} s t

/-- RET pops the slot sp names and keeps its content; with no call outstanding it raises STACK_UNDERFLOW (D6). Where sp names
no slot, which no run reaches, the model stops by name (the model's choice, log entry 6). -/
def Obligations.ReturnPopsTheStack : Prop :=
  Encodes 0x00EE .ret ∧
  ∀ s : State,
    (s.sp.toNat = 0 → ∃ t, exec .ret s = .next t ∧ Latches .stackUnderflow .ret s t) ∧
    (∀ k : Fin 16, k.val = s.sp.toNat → 1 ≤ k.val →
      ∃ t, exec .ret s = .next t ∧ t.pc = s.slot k ∧ t.sp.toNat = s.sp.toNat - 1 ∧ Frame { sp := True } s t) ∧
    (16 ≤ s.sp.toNat → exec .ret s = .fault .stackSlotMissing)

/-- JP (R112). -/
def Obligations.JumpSetsPc : Prop :=
  ∀ nnn : Addr12, Encodes (0x1000 + nnn.toNat) (.jp nnn) ∧
    ∀ s : State, ∃ t, exec (.jp nnn) s = .next t ∧ t.pc.toNat = nnn.toNat ∧ Frame {} s t

/-- CALL increments sp, stores the address after the call in the slot the new sp names, and jumps; with sp at 15 or above it
raises STACK_OVERFLOW (R113; the bound is the spec's decision D5). -/
def Obligations.CallPushesTheReturnAddress : Prop :=
  ∀ nnn : Addr12, Encodes (0x2000 + nnn.toNat) (.call nnn) ∧
    ∀ s : State,
      (15 ≤ s.sp.toNat → ∃ t, exec (.call nnn) s = .next t ∧ Latches .stackOverflow (.call nnn) s t) ∧
      (∀ k : Fin 16, k.val = s.sp.toNat + 1 →
        ∃ t, exec (.call nnn) s = .next t ∧ t.sp.toNat = s.sp.toNat + 1 ∧ t.slot k = s.pc + 2#16 ∧
          t.pc.toNat = nnn.toNat ∧ Frame { sp := True, slots := fun j => j = k } s t)

/-- Bnnn: the sum of nnn and V0 is kept to 16 bits and never wraps (R114; not masking to 12 bits is the decision D14). -/
def Obligations.JumpWithOffsetAddsV0 : Prop :=
  ∀ nnn : Addr12, Encodes (0xB000 + nnn.toNat) (.jpV0 nnn) ∧
    ∀ s : State, ∃ t, exec (.jpV0 nnn) s = .next t ∧ t.pc.toNat = nnn.toNat + (s.reg 0).toNat ∧ Frame {} s t

/-- A return undoes a call: pc is the address after the call, sp is what it was, and nothing else but the slot the call wrote
has changed (10_state.md R26). -/
def Obligations.ReturnUndoesCall : Prop :=
  ∀ (nnn : Addr12) (s : State), s.sp.toNat < 15 →
    ∃ t u, exec (.call nnn) s = .next t ∧ exec .ret t = .next u ∧ u.pc = s.pc + 2#16 ∧
      Frame { slots := fun j => j.val = s.sp.toNat + 1 } s u

/-! ## Conditional skips (42_skip.md) -/

/-- SE and SNE against an immediate (R120, R121): pc moves by 4 when the condition holds, else by 2. -/
def Obligations.SkipOnImmediate : Prop :=
  ∀ (x : RegIx) (kk : Byte),
    Encodes (0x3000 + 256 * x.val + kk.toNat) (.seKk x kk) ∧ Encodes (0x4000 + 256 * x.val + kk.toNat) (.sneKk x kk) ∧
    ∀ s : State,
      (∃ t, exec (.seKk x kk) s = .next t ∧
        t.pc = (if (s.reg x).toNat = kk.toNat then s.pc + 4#16 else s.pc + 2#16) ∧ Frame {} s t) ∧
      (∃ t, exec (.sneKk x kk) s = .next t ∧
        t.pc = (if (s.reg x).toNat = kk.toNat then s.pc + 2#16 else s.pc + 4#16) ∧ Frame {} s t)

/-- SE and SNE on two registers (R122, R123). -/
def Obligations.SkipOnRegisters : Prop :=
  ∀ x y : RegIx,
    Encodes (0x5000 + 256 * x.val + 16 * y.val) (.seVy x y) ∧ Encodes (0x9000 + 256 * x.val + 16 * y.val) (.sneVy x y) ∧
    ∀ s : State,
      (∃ t, exec (.seVy x y) s = .next t ∧
        t.pc = (if (s.reg x).toNat = (s.reg y).toNat then s.pc + 4#16 else s.pc + 2#16) ∧ Frame {} s t) ∧
      (∃ t, exec (.sneVy x y) s = .next t ∧
        t.pc = (if (s.reg x).toNat = (s.reg y).toNat then s.pc + 2#16 else s.pc + 4#16) ∧ Frame {} s t)

/-- The words 5xyN and 9xyN with N not 0 (R124): a no-operation under `nop`, the skip of 5xy0 or 9xy0 under `ignore` (the
parameter is the decision D11). -/
def Obligations.ReservedSkipWordsFollowParameter : Prop :=
  ∀ x y n : Fin 16,
    (n ≠ 0 → Encodes (0x5000 + 256 * x.val + 16 * y.val + n.val) (.reserved5 x y n) ∧
      Encodes (0x9000 + 256 * x.val + 16 * y.val + n.val) (.reserved9 x y n)) ∧
    ∀ s : State,
      (∃ t, exec (.reserved5 x y n) s = .next t ∧ Frame {} s t ∧
        t.pc = (if s.cfg.lowNibble59 = .ignore ∧ s.reg x = s.reg y then s.pc + 4#16 else s.pc + 2#16)) ∧
      (∃ t, exec (.reserved9 x y n) s = .next t ∧ Frame {} s t ∧
        t.pc = (if s.cfg.lowNibble59 = .ignore ∧ s.reg x ≠ s.reg y then s.pc + 4#16 else s.pc + 2#16))

/-! ## Immediates, I and the random byte (43_load_imm.md) -/

/-- LD Vx, kk (R130). -/
def Obligations.LoadImmediate : Prop :=
  ∀ (x : RegIx) (kk : Byte), Encodes (0x6000 + 256 * x.val + kk.toNat) (.ldKk x kk) ∧
    ∀ s : State, ∃ t, exec (.ldKk x kk) s = .next t ∧ t.reg x = kk ∧ t.pc = s.pc + 2#16 ∧
      Frame { regs := fun r => r = x } s t

/-- ADD Vx, kk (R131): modulo 256, VF written only when it is the destination. -/
def Obligations.AddImmediateWrapsWithoutFlag : Prop :=
  ∀ (x : RegIx) (kk : Byte), Encodes (0x7000 + 256 * x.val + kk.toNat) (.addKk x kk) ∧
    ∀ s : State, ∃ t, exec (.addKk x kk) s = .next t ∧ (t.reg x).toNat = ((s.reg x).toNat + kk.toNat) % 256 ∧
      (x ≠ 15 → t.reg 15 = s.reg 15) ∧ t.pc = s.pc + 2#16 ∧ Frame { regs := fun r => r = x } s t

/-- LD I, nnn (R132): the top four bits of I become 0. -/
def Obligations.LoadIndex : Prop :=
  ∀ nnn : Addr12, Encodes (0xA000 + nnn.toNat) (.ldI nnn) ∧
    ∀ s : State, ∃ t, exec (.ldI nnn) s = .next t ∧ t.i.toNat = nnn.toNat ∧ t.pc = s.pc + 2#16 ∧
      Frame { index := True } s t

/-- RND Vx, kk (R133, R134): one fresh draw under the mask; where kk has a 0 the bit is 0, and the draws taken are counted
(the draw is the decision D15, the counter the model's, log entry 4). Nothing is known of the draw. -/
def Obligations.RandomByteUnderMask : Prop :=
  ∀ (x : RegIx) (kk : Byte), Encodes (0xC000 + 256 * x.val + kk.toNat) (.rnd x kk) ∧
    ∀ s : State, ∃ t, exec (.rnd x kk) s = .next t ∧
      (∀ b < 8, (t.reg x).getLsbD b = ((Config.randomByte s.draws).getLsbD b && kk.getLsbD b)) ∧
      t.draws = s.draws + 1 ∧ t.pc = s.pc + 2#16 ∧ Frame { regs := fun r => r = x, draws := True } s t

/-! ## ALU (44_alu.md) -/

/-- LD Vx, Vy (R141): no flag. -/
def Obligations.MoveRegister : Prop :=
  ∀ x y : RegIx, Encodes (0x8000 + 256 * x.val + 16 * y.val) (.ldVy x y) ∧
    ∀ s : State, ∃ t, exec (.ldVy x y) s = .next t ∧ t.reg x = s.reg y ∧ t.pc = s.pc + 2#16 ∧
      Frame { regs := fun r => r = x } s t

/-- OR, AND, XOR bit by bit (R142, R143, R144): VF is not written and not cleared. -/
def Obligations.LogicWritesNoFlag : Prop :=
  ∀ x y : RegIx,
    Encodes (0x8001 + 256 * x.val + 16 * y.val) (.orVy x y) ∧ Encodes (0x8002 + 256 * x.val + 16 * y.val) (.andVy x y) ∧
    Encodes (0x8003 + 256 * x.val + 16 * y.val) (.xorVy x y) ∧
    ∀ s : State,
      (∃ t, exec (.orVy x y) s = .next t ∧ t.pc = s.pc + 2#16 ∧ Frame { regs := fun r => r = x } s t ∧
        ∀ b < 8, (t.reg x).getLsbD b = ((s.reg x).getLsbD b || (s.reg y).getLsbD b)) ∧
      (∃ t, exec (.andVy x y) s = .next t ∧ t.pc = s.pc + 2#16 ∧ Frame { regs := fun r => r = x } s t ∧
        ∀ b < 8, (t.reg x).getLsbD b = ((s.reg x).getLsbD b && (s.reg y).getLsbD b)) ∧
      (∃ t, exec (.xorVy x y) s = .next t ∧ t.pc = s.pc + 2#16 ∧ Frame { regs := fun r => r = x } s t ∧
        ∀ b < 8, (t.reg x).getLsbD b = ((s.reg x).getLsbD b ^^ (s.reg y).getLsbD b))

/-- ADD Vx, Vy (R145): the sum modulo 256; VF is the carry, or 1 under `always_one` (the parameter is the decision D8); with
x = F the sum is what VF keeps. -/
def Obligations.AddWritesCarry : Prop :=
  ∀ x y : RegIx, Encodes (0x8004 + 256 * x.val + 16 * y.val) (.addVy x y) ∧
    ∀ s : State, ∃ t, exec (.addVy x y) s = .next t ∧
      (t.reg x).toNat = ((s.reg x).toNat + (s.reg y).toNat) % 256 ∧
      (x ≠ 15 → s.cfg.addVfMode = .carry →
        (t.reg 15).toNat = if 255 < (s.reg x).toNat + (s.reg y).toNat then 1 else 0) ∧
      (x ≠ 15 → s.cfg.addVfMode = .alwaysOne → (t.reg 15).toNat = 1) ∧
      t.pc = s.pc + 2#16 ∧ Frame { regs := fun r => r = x ∨ r = 15 } s t

/-- SUB Vx, Vy (R146): the flag is the strict comparison of the old values; the result reads the registers after the flag
write (D9, log entry 13), so an operand that is VF is the flag. -/
def Obligations.SubtractWritesStrictFlag : Prop :=
  ∀ x y : RegIx, Encodes (0x8005 + 256 * x.val + 16 * y.val) (.sub x y) ∧
    ∀ (s : State) (f : Nat), f = (if (s.reg x).toNat > (s.reg y).toNat then 1 else 0) →
      ∃ t, exec (.sub x y) s = .next t ∧ (x ≠ 15 → (t.reg 15).toNat = f) ∧
        (x ≠ 15 → y ≠ 15 → (t.reg x).toNat = ((s.reg x).toNat + 256 - (s.reg y).toNat) % 256) ∧
        (x = 15 → y ≠ 15 → (t.reg x).toNat = (f + 256 - (s.reg y).toNat) % 256) ∧
        (x ≠ 15 → y = 15 → (t.reg x).toNat = ((s.reg x).toNat + 256 - f) % 256) ∧
        (x = 15 → y = 15 → (t.reg x).toNat = 0) ∧
        t.pc = s.pc + 2#16 ∧ Frame { regs := fun r => r = x ∨ r = 15 } s t

/-- SUBN Vx, Vy (R148), as SUB with the operands the other way round (D9, log entry 13). -/
def Obligations.ReverseSubtractWritesStrictFlag : Prop :=
  ∀ x y : RegIx, Encodes (0x8007 + 256 * x.val + 16 * y.val) (.subn x y) ∧
    ∀ (s : State) (f : Nat), f = (if (s.reg y).toNat > (s.reg x).toNat then 1 else 0) →
      ∃ t, exec (.subn x y) s = .next t ∧ (x ≠ 15 → (t.reg 15).toNat = f) ∧
        (x ≠ 15 → y ≠ 15 → (t.reg x).toNat = ((s.reg y).toNat + 256 - (s.reg x).toNat) % 256) ∧
        (x = 15 → y ≠ 15 → (t.reg x).toNat = ((s.reg y).toNat + 256 - f) % 256) ∧
        (x ≠ 15 → y = 15 → (t.reg x).toNat = (f + 256 - (s.reg x).toNat) % 256) ∧
        (x = 15 → y = 15 → (t.reg x).toNat = 0) ∧
        t.pc = s.pc + 2#16 ∧ Frame { regs := fun r => r = x ∨ r = 15 } s t

/-- SHR Vx and SHL Vx (R147, R149): VF is the bit shifted out and y is ignored; with x = F the flag is what is shifted (D9,
log entry 13). -/
def Obligations.ShiftsWriteTheBitShiftedOut : Prop :=
  ∀ x y : RegIx,
    Encodes (0x8006 + 256 * x.val + 16 * y.val) (.shr x y) ∧ Encodes (0x800E + 256 * x.val + 16 * y.val) (.shl x y) ∧
    ∀ s : State,
      (∃ t, exec (.shr x y) s = .next t ∧ t.pc = s.pc + 2#16 ∧ Frame { regs := fun r => r = x ∨ r = 15 } s t ∧
        (x ≠ 15 → (t.reg x).toNat = (s.reg x).toNat / 2 ∧ (t.reg 15).toNat = (s.reg x).toNat % 2) ∧
        (x = 15 → (t.reg 15).toNat = 0)) ∧
      (∃ t, exec (.shl x y) s = .next t ∧ t.pc = s.pc + 2#16 ∧ Frame { regs := fun r => r = x ∨ r = 15 } s t ∧
        (x ≠ 15 → (t.reg x).toNat = 2 * (s.reg x).toNat % 256 ∧ (t.reg 15).toNat = (s.reg x).toNat / 128) ∧
        (x = 15 → (t.reg 15).toNat = if 0x80 ≤ (s.reg 15).toNat then 2 else 0))

/-- The reserved words of families 8, E and F (R150, 46_keypad.md R172, 48_index_memory.md R196) are no-operations (D26). -/
def Obligations.ReservedWordsAreNoOperations : Prop :=
  (∀ x y n : Fin 16, n.val ∈ [8, 9, 0xA, 0xB, 0xC, 0xD, 0xF] →
    Encodes (0x8000 + 256 * x.val + 16 * y.val + n.val) (.reserved8 x y n)) ∧
  (∀ (x : RegIx) (kk : Byte), kk.toNat ∉ [0x9E, 0xA1] → Encodes (0xE000 + 256 * x.val + kk.toNat) (.reservedE x kk)) ∧
  (∀ (x : RegIx) (kk : Byte), kk.toNat ∉ [0x07, 0x0A, 0x15, 0x18, 0x1E, 0x29, 0x33, 0x55, 0x65] →
    Encodes (0xF000 + 256 * x.val + kk.toNat) (.reservedF x kk)) ∧
  ∀ (x y n : Fin 16) (kk : Byte) (i : Instr) (s : State),
    i ∈ [.reserved8 x y n, .reservedE x kk, .reservedF x kk] →
      ∃ t, exec i s = .next t ∧ t.pc = s.pc + 2#16 ∧ Frame {} s t

/-! ## Display (45_display.md) -/

/-- CLS (R160): every pixel off, VF not written. -/
def Obligations.ClearScreen : Prop :=
  Encodes 0x00E0 .cls ∧
  ∀ s : State, ∃ t, exec .cls s = .next t ∧ (∀ x y, t.pixel x y = false) ∧ t.pc = s.pc + 2#16 ∧
    Frame { pixels := fun _ _ => True } s t

/-- DRW (R161, R162, R163): each on pixel of the sprite that lies on the grid toggles its cell, no other cell changes, and VF
is 1 exactly when a toggled cell was on; sprite bytes outside memory raise MEM_OOB with nothing written (D4). The
coordinates are the old Vx and Vy, VF among them (D10, log entry 14). -/
def Obligations.DrawTogglesAndReportsCollision : Prop :=
  ∀ x y n : Fin 16, Encodes (0xD000 + 256 * x.val + 16 * y.val + n.val) (.drw x y n) ∧
    ∀ s : State,
      (1 ≤ n.val → 0xFFF < s.i.toNat + n.val - 1 →
        ∃ t, exec (.drw x y n) s = .next t ∧ Latches .memOob (.drw x y n) s t) ∧
      ((n.val = 0 ∨ s.i.toNat + n.val - 1 ≤ 0xFFF) →
        ∃ t, exec (.drw x y n) s = .next t ∧
          (∀ tx ty, tx < 64 → ty < 32 → SpriteOn s x y n tx ty → t.pixel tx ty = !s.pixel tx ty) ∧
          ((∃ tx ty, tx < 64 ∧ ty < 32 ∧ SpriteOn s x y n tx ty ∧ s.pixel tx ty = true) → t.reg 15 = 1#8) ∧
          ((∀ tx ty, tx < 64 → ty < 32 → SpriteOn s x y n tx ty → s.pixel tx ty = false) → t.reg 15 = 0#8) ∧
          t.pc = s.pc + 2#16 ∧
          Frame { regs := fun r => r = 15, pixels := SpriteOn s x y n } s t)

/-- Drawing the same sprite twice at the same place restores every pixel, and the second draw reports a collision exactly when
the first turned a pixel on (R162, its corner cases). -/
def Obligations.DrawTwiceRestoresTheScreen : Prop :=
  ∀ (x y n : Fin 16) (s : State), x ≠ 15 → y ≠ 15 → (n.val = 0 ∨ s.i.toNat + n.val - 1 ≤ 0xFFF) →
    ∃ t u, exec (.drw x y n) s = .next t ∧ exec (.drw x y n) t = .next u ∧
      (∀ tx ty, u.pixel tx ty = s.pixel tx ty) ∧
      (u.reg 15 = 1#8 ↔ ∃ tx ty, s.pixel tx ty = false ∧ t.pixel tx ty = true)

/-! ## Keypad (46_keypad.md) -/

/-- SKP and SKNP (R170, R171) skip by the level of the key Vx names; an index above 15 raises KEY_OOB (D7). -/
def Obligations.SkipOnKey : Prop :=
  ∀ x : RegIx, Encodes (0xE09E + 256 * x.val) (.skp x) ∧ Encodes (0xE0A1 + 256 * x.val) (.sknp x) ∧
    ∀ s : State,
      (15 < (s.reg x).toNat →
        (∃ t, exec (.skp x) s = .next t ∧ Latches .keyOob (.skp x) s t) ∧
        (∃ t, exec (.sknp x) s = .next t ∧ Latches .keyOob (.sknp x) s t)) ∧
      (∀ k : KeyIx, k.val = (s.reg x).toNat →
        (∃ t, exec (.skp x) s = .next t ∧ Frame {} s t ∧
          t.pc = (if s.keyDown k then s.pc + 4#16 else s.pc + 2#16)) ∧
        (∃ t, exec (.sknp x) s = .next t ∧ Frame {} s t ∧
          t.pc = (if s.keyDown k then s.pc + 2#16 else s.pc + 4#16)))

/-- LD Vx, K (R173): the lowest pressed key goes to Vx and pc advances; with no key pressed the whole state is as before, so
the next cycle fetches the same word. -/
def Obligations.WaitForKey : Prop :=
  ∀ x : RegIx, Encodes (0xF00A + 256 * x.val) (.ldVxK x) ∧
    ∀ s : State,
      (∀ k : KeyIx, s.keyDown k = true → (∀ j : KeyIx, j < k → s.keyDown j = false) →
        ∃ t, exec (.ldVxK x) s = .next t ∧ (t.reg x).toNat = k.val ∧ t.pc = s.pc + 2#16 ∧
          Frame { regs := fun r => r = x } s t) ∧
      ((∀ k, s.keyDown k = false) → exec (.ldVxK x) s = .next s)

/-! ## Timers (47_timer_ops.md) -/

/-- Fx07 reads DT, Fx15 writes DT, Fx18 writes ST (R180, R181, R182; which code does which is the spec's general knowledge G4,
log entry 23). -/
def Obligations.TimerTransfers : Prop :=
  ∀ x : RegIx,
    Encodes (0xF007 + 256 * x.val) (.ldVxDt x) ∧ Encodes (0xF015 + 256 * x.val) (.ldDtVx x) ∧
    Encodes (0xF018 + 256 * x.val) (.ldStVx x) ∧
    ∀ s : State,
      (∃ t, exec (.ldVxDt x) s = .next t ∧ t.reg x = s.dt ∧ t.pc = s.pc + 2#16 ∧
        Frame { regs := fun r => r = x } s t) ∧
      (∃ t, exec (.ldDtVx x) s = .next t ∧ t.dt = s.reg x ∧ t.pc = s.pc + 2#16 ∧ Frame { dt := True } s t) ∧
      (∃ t, exec (.ldStVx x) s = .next t ∧ t.st = s.reg x ∧ t.pc = s.pc + 2#16 ∧ Frame { st := True } s t)

/-! ## Index register and memory (48_index_memory.md) -/

/-- ADD I, Vx (R190): modulo 65536, no flag (the 16-bit width is the decision D13). -/
def Obligations.AddToIndexWraps : Prop :=
  ∀ x : RegIx, Encodes (0xF01E + 256 * x.val) (.addI x) ∧
    ∀ s : State, ∃ t, exec (.addI x) s = .next t ∧ t.i.toNat = (s.i.toNat + (s.reg x).toNat) % 65536 ∧
      t.pc = s.pc + 2#16 ∧ Frame { index := True } s t

/-- LD F, Vx (R191): the address of the glyph of the low four bits, always inside the font. -/
def Obligations.GlyphAddress : Prop :=
  ∀ x : RegIx, Encodes (0xF029 + 256 * x.val) (.ldF x) ∧
    ∀ s : State, ∃ t, exec (.ldF x) s = .next t ∧ t.i.toNat = 0x050 + 5 * ((s.reg x).toNat % 16) ∧
      0x050 ≤ t.i.toNat ∧ t.i.toNat ≤ 0x09B ∧ t.pc = s.pc + 2#16 ∧ Frame { index := True } s t

/-- LD B, Vx (R192): the three decimal digits at I, I+1, I+2, most significant first; a range that leaves memory raises MEM_OOB
with nothing written (D4). -/
def Obligations.DecimalDigitsStored : Prop :=
  ∀ x : RegIx, Encodes (0xF033 + 256 * x.val) (.ldB x) ∧
    ∀ s : State,
      (0xFFF < s.i.toNat + 2 → ∃ t, exec (.ldB x) s = .next t ∧ Latches .memOob (.ldB x) s t) ∧
      (s.i.toNat + 2 ≤ 0xFFF → ∃ t, exec (.ldB x) s = .next t ∧
        (t.readByte s.i.toNat).toNat = (s.reg x).toNat / 100 ∧
        (t.readByte (s.i.toNat + 1)).toNat = (s.reg x).toNat / 10 % 10 ∧
        (t.readByte (s.i.toNat + 2)).toNat = (s.reg x).toNat % 10 ∧ t.pc = s.pc + 2#16 ∧
        Frame { bytes := fun a => s.dataAddr 0 ≤ a ∧ a < s.dataAddr 0 + 3 } s t)

/-- LD [I], Vx (R193, R194): V0 to Vx at I up, I unchanged (D12); a range that leaves memory raises MEM_OOB with nothing written
(D4). -/
def Obligations.RegistersStored : Prop :=
  ∀ x : RegIx, Encodes (0xF055 + 256 * x.val) (.stRegs x) ∧
    ∀ s : State,
      (0xFFF < s.i.toNat + x.val → ∃ t, exec (.stRegs x) s = .next t ∧ Latches .memOob (.stRegs x) s t) ∧
      (s.i.toNat + x.val ≤ 0xFFF → ∃ t, exec (.stRegs x) s = .next t ∧
        (∀ k : RegIx, k ≤ x → t.readByte (s.i.toNat + k.val) = s.reg k) ∧ t.i = s.i ∧ t.pc = s.pc + 2#16 ∧
        Frame { bytes := fun a => s.dataAddr 0 ≤ a ∧ a < s.dataAddr 0 + (x.val + 1) } s t)

/-- LD Vx, [I] (R193, R195): V0 to Vx from I up, the registers above x and I unchanged (D12); a range that leaves memory raises
MEM_OOB with no register written (D4). -/
def Obligations.RegistersLoaded : Prop :=
  ∀ x : RegIx, Encodes (0xF065 + 256 * x.val) (.ldRegs x) ∧
    ∀ s : State,
      (0xFFF < s.i.toNat + x.val → ∃ t, exec (.ldRegs x) s = .next t ∧ Latches .memOob (.ldRegs x) s t) ∧
      (s.i.toNat + x.val ≤ 0xFFF → ∃ t, exec (.ldRegs x) s = .next t ∧
        (∀ k : RegIx, k ≤ x → t.reg k = s.readByte (s.i.toNat + k.val)) ∧ t.i = s.i ∧ t.pc = s.pc + 2#16 ∧
        Frame { regs := fun r => r ≤ x } s t)

/-! ## The cycle (40_cycle_dispatch.md) -/

/-- The fetch combines two bytes big-endian (R101): a running machine whose pc lies inside memory executes the instruction of
`mem[pc] * 256 + mem[pc + 1]`, at an odd pc as at an even one (that an odd pc is legal is the decision D28, 20_memory.md R57,
log entry 18). -/
def Obligations.FetchIsBigEndian : Prop :=
  ∀ s : State, s.fault = none → s.pc.toNat ≤ 0x0FFE →
    cycle s = exec (decodeWord (BitVec.ofNat 16
      ((s.readByte s.pc.toNat).toNat * 256 + (s.readByte (s.pc.toNat + 1)).toNat))) s

/-- A step runs the decoded instruction: when the engine runs, the host's next operation is `cycle` and the two bytes at pc
decode to a well-formed i, the step is exec of i, with that operation taken off the host's list (the list is the model's,
log entry 1). -/
def Obligations.StepRunsDecodedInstruction : Prop :=
  ∀ (s : State) (i : Instr), s.fault = none → s.pc.toNat ≤ 0x0FFE → wellFormed i = true →
    decodeBytes [s.readByte s.pc.toNat, s.readByte (s.pc.toNat + 1)] = .ok (i, []) →
    (s.schedule = [] → step s = exec i s) ∧
    ∀ rest, s.schedule = .cycle :: rest → step s = exec i { s with schedule := rest }

/-- A cycle whose fetch lies outside memory raises FETCH_OOB before reading anything: the latch records pc and the word 0, and
nothing else changes (R103; the fault is the decision D3). -/
def Obligations.FetchOutsideMemoryFaults : Prop :=
  ∀ s : State, s.fault = none → 0x0FFE < s.pc.toNat →
    cycle s = .next { s with fault := some { code := .fetchOob, addr := s.pc, opcode := 0#16 } }

/-- A byte a store writes is fetched by the very next cycle (20_memory.md R62): Fx55 onto the word after itself makes the next
cycle run the word of V0 and V1. -/
def Obligations.StoreIsFetchedNext : Prop :=
  ∀ (x : RegIx) (s : State), s.fault = none → 1 ≤ x.val → s.i = s.pc + 2#16 → s.pc.toNat + 2 + x.val ≤ 0xFFF →
    ∃ t, exec (.stRegs x) s = .next t ∧
      cycle t = exec (decodeWord (BitVec.ofNat 16 ((s.reg 0).toNat * 256 + (s.reg 1).toNat))) t

/-! ## Faults (60_exceptions.md) -/

/-- A fault is precise (R201, decision D27): whenever an instruction of a running machine sets the latch, the latch holds the
instruction's address and word, and everything else is as when the cycle began; and the word a cycle's latch records is the
word that cycle fetched. -/
def Obligations.FaultIsPrecise : Prop :=
  (∀ (i : Instr) (s t : State), s.fault = none → exec i s = .next t → t.fault ≠ none → ∃ c, Latches c i s t) ∧
  ∀ (s t : State) (f : FaultRecord), s.fault = none → s.pc.toNat ≤ 0x0FFE → cycle s = .next t → t.fault = some f →
    f.addr = s.pc ∧
      f.opcode.toNat = (s.readByte s.pc.toNat).toNat * 256 + (s.readByte (s.pc.toNat + 1)).toNat

/-- Which instruction raises which fault, when (R202, R203; decisions D4 to D7): from every state whose sp indexes the stack,
every instruction has a next state, and on a running machine the latch is set with the code of the table or not at all. -/
def Obligations.FaultsFollowTheTable : Prop :=
  ∀ (i : Instr) (s : State), s.sp.toNat ≤ 15 → s.fault = none →
    ∃ t, exec i s = .next t ∧ t.fault.map FaultRecord.code = faultOf i s

/-- A stopped engine (40_cycle_dispatch.md R104, 60_exceptions.md R206, decision D2): `cycle` changes nothing, and a set latch
keeps its content under every step whose operation is not `init` (10_state.md R43). -/
def Obligations.LatchHoldsUntilInit : Prop :=
  (∀ s : State, s.fault ≠ none → cycle s = .next s) ∧
  ∀ (s t : State) (f : FaultRecord), s.fault = some f → step s = .next t → s.schedule.head? ≠ some .init →
    t.fault = some f

/-! ## The host's operations -/

/-- One tick (60_exceptions.md R215): each timer goes down by 1 and stops at 0; nothing else changes. It does so on a stopped
engine as on a running one (R208, the decision D20, log entry 20). -/
def Obligations.TickCountsDownToZero : Prop :=
  ∀ s : State, ∃ t, perform .tickTimers s = .next t ∧
    (0 < s.dt.toNat → t.dt.toNat + 1 = s.dt.toNat) ∧ (s.dt.toNat = 0 → t.dt.toNat = 0) ∧
    (0 < s.st.toNat → t.st.toNat + 1 = s.st.toNat) ∧ (s.st.toNat = 0 → t.st.toNat = 0) ∧
    t.pc = s.pc ∧ Frame { dt := True, st := True } s t

/-- Any number of ticks (60_exceptions.md R216): a timer that held v holds v - k, floored at 0, after k ticks. -/
def Obligations.ManyTicksFloorAtZero : Prop :=
  ∀ (k : Nat) (s : State),
    (State.tickTimers^[k] s).dt.toNat = s.dt.toNat - k ∧ (State.tickTimers^[k] s).st.toNat = s.st.toNat - k

/-- `set_key` (60_exceptions.md R219; the index type is the decision D7) sets one key and nothing else. -/
def Obligations.SetKeySetsOneKey : Prop :=
  ∀ (k : KeyIx) (pressed : Bool) (s : State), ∃ t, perform (.setKey k pressed) s = .next t ∧
    t.keyDown k = pressed ∧ (∀ j, j ≠ k → t.keyDown j = s.keyDown j) ∧ t = { s with key := t.key }

/-- `load` (20_memory.md R66): a buffer of at most 3584 bytes stands at 0x200 up, byte k at 0x200 + k, and every other byte
is as before; a longer one is refused and changes nothing; nothing but memory changes. -/
def Obligations.LoadCopiesOrRefuses : Prop :=
  ∀ (buffer : List Byte) (s : State),
    (3584 < buffer.length → reply (.load buffer) s = .loaded false ∧ perform (.load buffer) s = .next s) ∧
    (buffer.length ≤ 3584 → reply (.load buffer) s = .loaded true ∧
      ∃ t, perform (.load buffer) s = .next t ∧
        (∀ k b, buffer[k]? = some b → t.readByte (0x200 + k) = b) ∧
        (∀ a, a < 0x200 ∨ 0x200 + buffer.length ≤ a → t.readByte a = s.readByte a) ∧
        t = { s with mem := t.mem })

/-- `init` (70_reset_and_hazards.md R230, R231) gives the state of 10_state.md R38 from any state. The parameters, the draws
taken and the host's list are not the machine's and stay (the model's choice, log entry 10). -/
def Obligations.InitIsTheSameFromAnyState : Prop :=
  ∀ s : State, ∃ t, perform .init s = .next t ∧
    (∀ r, (t.reg r).toNat = 0) ∧ t.pc.toNat = 0x200 ∧ t.i.toNat = 0 ∧ t.sp.toNat = 0 ∧ (∀ k, (t.slot k).toNat = 0) ∧
    t.dt.toNat = 0 ∧ t.st.toNat = 0 ∧ (∀ x y, t.pixel x y = false) ∧ (∀ k, t.keyDown k = false) ∧ t.fault = none ∧
    (∀ k : Fin 80, t.readByte (0x050 + k.val) = s.cfg.font[k.val]) ∧
    (∀ a, a < 0x050 ∨ 0x09F < a → t.readByte a = 0#8) ∧
    t.cfg = s.cfg ∧ t.draws = s.draws ∧ t.schedule = s.schedule

/-- The reset state (10_state.md R38; DT and ST by the decision D25). The font is the parameter; its default bytes are the
spec's general knowledge (log entry 3). -/
def Obligations.ResetState : Prop :=
  (∀ r, (State.reset.reg r).toNat = 0) ∧ State.reset.pc.toNat = 0x200 ∧ State.reset.i.toNat = 0 ∧
  State.reset.sp.toNat = 0 ∧ (∀ k, (State.reset.slot k).toNat = 0) ∧ State.reset.dt.toNat = 0 ∧
  State.reset.st.toNat = 0 ∧ (∀ x y, State.reset.pixel x y = false) ∧ (∀ k, State.reset.keyDown k = false) ∧
  State.reset.fault = none ∧
  (∀ k : Fin 80, State.reset.readByte (0x050 + k.val) = State.reset.cfg.font[k.val]) ∧
  (∀ a, a < 0x050 ∨ 0x09F < a → State.reset.readByte a = 0#8)

/-- The operations that are not `cycle` and not `init` do not look at the latch and do not change it (60_exceptions.md R208,
decision D20). -/
def Obligations.OtherOperationsIgnoreTheLatch : Prop :=
  ∀ (op : HostOp) (s : State) (latch : Option FaultRecord), op ≠ .cycle → op ≠ .init →
    ∃ t, perform op s = .next t ∧ t.fault = s.fault ∧
      perform op { s with fault := latch } = .next { t with fault := latch }

/-- The host's reads (60_exceptions.md R222, R223) change nothing; the framebuffer read gives cell y * 64 + x the pixel of
column x and row y, and the timer read gives DT and ST. -/
def Obligations.ReadsChangeNothing : Prop :=
  ∀ s : State,
    perform .readFramebuffer s = .next s ∧ perform .readTimers s = .next s ∧
    reply .readTimers s = .timers s.dt s.st ∧
    ∃ cells : List Bool, reply .readFramebuffer s = .framebuffer cells ∧ cells.length = 2048 ∧
      ∀ x y, x < 64 → y < 32 → cells[y * 64 + x]? = some (s.pixel x y)

/-- A step performs the oldest operation the host has listed, on the state with that operation taken off the list, and leaves
exactly the later ones listed; when none is listed it performs `cycle` (10_state.md R41, R42; the list and its default are the
model's, log entry 1). -/
def Obligations.StepTakesTheOldestOperation : Prop :=
  (∀ s : State, s.schedule = [] → step s = perform .cycle s) ∧
  ∀ (s : State) (op : HostOp) (rest : List HostOp), s.schedule = op :: rest →
    step s = perform op { s with schedule := rest } ∧ ∀ t, step s = .next t → t.schedule = rest

/-! ## Memory -/

/-- Every read gives the most recent write to that address, and a write leaves every other address alone (20_memory.md R59,
R60), with memory kept in canonical form (the form is the model's choice, log entry 24). -/
def Obligations.ReadGivesTheLastWrite : Prop :=
  ∀ (s : State) (a b : Nat) (v w : Byte), a < 4096 → Memory.wf s.cfg.font s.mem →
    ((s.writeByte a v).writeByte a w).readByte a = w ∧
    (b ≠ a → (s.writeByte a v).readByte b = s.readByte b) ∧
    Memory.wf s.cfg.font (s.writeByte a v).mem

/-! ## Rules of the whole machine -/

/-- Memory is written by Fx33 and Fx55 only (20_memory.md R50), the framebuffer by 00E0 and Dxyn only (10_state.md R30,
45_display.md R163 e). -/
def Obligations.MemoryAndScreenWrittenAsListed : Prop :=
  ∀ (i : Instr) (s t : State), exec i s = .next t →
    (((∀ x, i ≠ .ldB x) ∧ (∀ x, i ≠ .stRegs x)) → ∀ a, t.readByte a = s.readByte a) ∧
    ((i ≠ .cls ∧ (∀ x y n, i ≠ .drw x y n)) → ∀ x y, t.pixel x y = s.pixel x y)

/-- A general register is written only by an instruction whose destination it is, and VF only by those and by the six of
10_state.md R22. -/
def Obligations.RegistersWrittenAsListed : Prop :=
  ∀ (i : Instr) (s t : State) (r : RegIx), exec i s = .next t → ¬ writesReg i r → t.reg r = s.reg r

/-- I is written by Annn, Fx1E and Fx29 only; sp and the stack by 2nnn and 00EE only, the slots by 2nnn only; DT by Fx15 only and
ST by Fx18 only, within a cycle (10_state.md R24 to R28); no instruction writes a key (R31, 40_cycle_dispatch.md R107), a
parameter (R37) or the host's list. -/
def Obligations.SpecialRegistersWrittenAsListed : Prop :=
  ∀ (i : Instr) (s t : State), exec i s = .next t →
    (((∀ nnn, i ≠ .ldI nnn) ∧ (∀ x, i ≠ .addI x) ∧ (∀ x, i ≠ .ldF x)) → t.i = s.i) ∧
    (((∀ nnn, i ≠ .call nnn) ∧ i ≠ .ret) → t.sp = s.sp) ∧
    ((∀ nnn, i ≠ .call nnn) → ∀ k, t.slot k = s.slot k) ∧
    ((∀ x, i ≠ .ldDtVx x) → t.dt = s.dt) ∧ ((∀ x, i ≠ .ldStVx x) → t.st = s.st) ∧
    (∀ k, t.keyDown k = s.keyDown k) ∧ t.cfg = s.cfg ∧ t.schedule = s.schedule

/-- How each instruction leaves pc (10_state.md R23): the table for an instruction that completes, and pc unchanged for one that
faults. -/
def Obligations.PcFollowsTheTable : Prop :=
  ∀ (i : Instr) (s t : State), s.fault = none → exec i s = .next t →
    (t.fault = none → PcAfter i s t) ∧ (t.fault ≠ none → t.pc = s.pc)

/-! ## Invariants -/

/-- The reset state (10_state.md R38) meets the invariant. Its bounds on sp, the stack and the latch are from R43; the canonical
form of memory in it is the model's choice (log entry 24), and how a set latch fits the machine is the decision D27 (log entry
11). -/
def Obligations.ResetMeetsTheInvariant : Prop := State.reset.Inv

/-- Every step keeps the invariant, whichever operation it is, from every state that meets it. Its bounds on sp and the stack
are from 10_state.md R43, its bound on pc from 41_flow.md R114; the canonical form of memory in it is the model's choice (log
entry 24), and how a set latch fits the machine is the decision D27 (log entry 11). -/
def Obligations.StepKeepsTheInvariant : Prop :=
  ∀ s t : State, s.Inv → step s = .next t → t.Inv

/-- From every state that meets the invariant the step has a next state: the machine is never stuck (60_exceptions.md R206,
93_implementation_defined.md). The invariant's canonical form of memory is the model's choice (log entry 24), its fit of a set
latch the decision D27 (log entry 11), and the stop it rules out the model's (log entry 6). -/
def Obligations.StepNeverGetsStuck : Prop :=
  ∀ s : State, s.Inv → ∃ t, step s = .next t
end

