-- ==== Sys2Proof/Laws/Fields.lean ====
section
/-! SUPPORT. Reading a field of a word that was put together from fields, and putting a word together from the fields read. -/

namespace Sys2Proof

/-! ## Words as numbers -/

theorem wordXyn_toNat (h x y n : Fin 16) :
    (wordXyn h x y n).toNat = h.val * 4096 + x.val * 256 + y.val * 16 + n.val := by
  simp only [wordXyn, BitVec.toNat_append, BitVec.toNat_ofFin]
  rw [← Nat.shiftLeft_add_eq_or_of_lt (show n.val < 2 ^ 4 from n.isLt),
    ← Nat.shiftLeft_add_eq_or_of_lt (show y.val < 2 ^ 4 from y.isLt),
    ← Nat.shiftLeft_add_eq_or_of_lt (show x.val < 2 ^ 4 from x.isLt)]
  simp only [Nat.shiftLeft_eq]
  omega

theorem wordXkk_toNat (h x : Fin 16) (kk : Byte) :
    (wordXkk h x kk).toNat = h.val * 4096 + x.val * 256 + kk.toNat := by
  simp only [wordXkk, BitVec.toNat_append, BitVec.toNat_ofFin]
  rw [← Nat.shiftLeft_add_eq_or_of_lt kk.isLt,
    ← Nat.shiftLeft_add_eq_or_of_lt (show x.val < 2 ^ 4 from x.isLt)]
  simp only [Nat.shiftLeft_eq]
  omega

theorem wordNnn_toNat (h : Fin 16) (nnn : Addr12) : (wordNnn h nnn).toNat = h.val * 4096 + nnn.toNat := by
  simp only [wordNnn, BitVec.toNat_append, BitVec.toNat_ofFin]
  rw [← Nat.shiftLeft_add_eq_or_of_lt nnn.isLt, Nat.shiftLeft_eq]

theorem nibble_val (w : Word) (lo : Nat) : (nibble w lo).val = w.toNat / 2 ^ lo % 16 := by
  simp [nibble, Nat.shiftRight_eq_div_pow]

theorem fieldH_val (w : Word) : (fieldH w).val = w.toNat / 4096 % 16 := nibble_val w 12
theorem fieldX_val (w : Word) : (fieldX w).val = w.toNat / 256 % 16 := nibble_val w 8
theorem fieldY_val (w : Word) : (fieldY w).val = w.toNat / 16 % 16 := nibble_val w 4
theorem fieldN_val (w : Word) : (fieldN w).val = w.toNat % 16 := by simp [fieldN, nibble_val]
theorem fieldKk_toNat (w : Word) : (fieldKk w).toNat = w.toNat % 256 := by simp [fieldKk]
theorem fieldNnn_toNat (w : Word) : (fieldNnn w).toNat = w.toNat % 4096 := by simp [fieldNnn]

/-! ## Fields of a word put together -/

section XYN
variable (h x y n : Fin 16)
@[simp] theorem fieldH_wordXyn : fieldH (wordXyn h x y n) = h := by
  apply Fin.ext; rw [fieldH_val, wordXyn_toNat]; omega
@[simp] theorem fieldX_wordXyn : fieldX (wordXyn h x y n) = x := by
  apply Fin.ext; rw [fieldX_val, wordXyn_toNat]; omega
@[simp] theorem fieldY_wordXyn : fieldY (wordXyn h x y n) = y := by
  apply Fin.ext; rw [fieldY_val, wordXyn_toNat]; omega
@[simp] theorem fieldN_wordXyn : fieldN (wordXyn h x y n) = n := by
  apply Fin.ext; rw [fieldN_val, wordXyn_toNat]; omega
end XYN

section XKK
variable (h x : Fin 16) (kk : Byte)
@[simp] theorem fieldH_wordXkk : fieldH (wordXkk h x kk) = h := by
  apply Fin.ext; rw [fieldH_val, wordXkk_toNat]; omega
@[simp] theorem fieldX_wordXkk : fieldX (wordXkk h x kk) = x := by
  apply Fin.ext; rw [fieldX_val, wordXkk_toNat]; omega
@[simp] theorem fieldKk_wordXkk : fieldKk (wordXkk h x kk) = kk := by
  apply BitVec.eq_of_toNat_eq; rw [fieldKk_toNat, wordXkk_toNat]; omega
end XKK

section NNN
variable (h : Fin 16) (nnn : Addr12)
@[simp] theorem fieldH_wordNnn : fieldH (wordNnn h nnn) = h := by
  apply Fin.ext; rw [fieldH_val, wordNnn_toNat]; omega
@[simp] theorem fieldNnn_wordNnn : fieldNnn (wordNnn h nnn) = nnn := by
  apply BitVec.eq_of_toNat_eq; rw [fieldNnn_toNat, wordNnn_toNat]; omega
end NNN

/-! ## A word put together from its own fields -/

theorem wordXyn_fields (w : Word) : wordXyn (fieldH w) (fieldX w) (fieldY w) (fieldN w) = w := by
  apply BitVec.eq_of_toNat_eq
  rw [wordXyn_toNat, fieldH_val, fieldX_val, fieldY_val, fieldN_val]; omega

theorem wordXkk_fields (w : Word) : wordXkk (fieldH w) (fieldX w) (fieldKk w) = w := by
  apply BitVec.eq_of_toNat_eq
  rw [wordXkk_toNat, fieldH_val, fieldX_val, fieldKk_toNat]; omega

theorem wordNnn_fields (w : Word) : wordNnn (fieldH w) (fieldNnn w) = w := by
  apply BitVec.eq_of_toNat_eq
  rw [wordNnn_toNat, fieldH_val, fieldNnn_toNat]; omega

/-! ## Bytes -/

theorem wordOfBytes_toNat (hi lo : Byte) : (wordOfBytes hi lo).toNat = hi.toNat * 256 + lo.toNat := by
  rw [wordOfBytes, BitVec.toNat_append, ← Nat.shiftLeft_add_eq_or_of_lt lo.isLt, Nat.shiftLeft_eq]

theorem hiByte_toNat (w : Word) : (hiByte w).toNat = w.toNat / 256 := by
  simp only [hiByte, BitVec.extractLsb'_toNat, Nat.shiftRight_eq_div_pow]; omega

theorem loByte_toNat (w : Word) : (loByte w).toNat = w.toNat % 256 := by
  simp [loByte]

@[simp] theorem wordOfBytes_hi_lo (w : Word) : wordOfBytes (hiByte w) (loByte w) = w := by
  apply BitVec.eq_of_toNat_eq
  rw [wordOfBytes_toNat, hiByte_toNat, loByte_toNat]; omega

@[simp] theorem hiByte_wordOfBytes (a b : Byte) : hiByte (wordOfBytes a b) = a := by
  apply BitVec.eq_of_toNat_eq
  rw [hiByte_toNat, wordOfBytes_toNat]; omega

@[simp] theorem loByte_wordOfBytes (a b : Byte) : loByte (wordOfBytes a b) = b := by
  apply BitVec.eq_of_toNat_eq
  rw [loByte_toNat, wordOfBytes_toNat]; omega

/-- The decoder on a word's two bytes. -/
theorem decodeBytes_word (w : Word) (rest : List Byte) :
    decodeBytes (hiByte w :: loByte w :: rest) = .ok (decodeWord w, rest) := by
  simp [decodeBytes]

/-- The table's numbering of a word is the word. -/
theorem decodeTableWord_16 (w : Word) : decodeTableWord 16 w.toNat = some (decodeWord w) := by
  simp [decodeTableWord, decodeBytes_word, w.isLt]

end Sys2Proof
end

