-- ==== Sys2Proof/Laws/PerInstr.lean ====
section
/-! SUPPORT. The family RoundTrip: for each instruction, the decoder reads back the word the encoder writes. -/

namespace Sys2Proof.Laws.RoundTrip

/-- Decoding the word of a well-formed instruction gives the instruction back. -/
def Statement (i : Instr) : Prop := wellFormed i = true → decodeWord (encode i) = i

theorem cls : Statement (.cls) := fun _ => by decide

theorem ret : Statement (.ret) := fun _ => by decide

theorem sys (nnn : Addr12) : Statement (.sys nnn) := by
  intro h
  simp only [wellFormed, Bool.and_eq_true, bne_iff_ne, ne_eq] at h
  simp [encode, decodeWord, decode0, h]

theorem jp (nnn : Addr12) : Statement (.jp nnn) := fun _ => by simp [encode, decodeWord]

theorem call (nnn : Addr12) : Statement (.call nnn) := fun _ => by simp [encode, decodeWord]

theorem seKk (x : RegIx) (kk : Byte) : Statement (.seKk x kk) := fun _ => by simp [encode, decodeWord]

theorem sneKk (x : RegIx) (kk : Byte) : Statement (.sneKk x kk) := fun _ => by simp [encode, decodeWord]

theorem seVy (x y : RegIx) : Statement (.seVy x y) := fun _ => by simp [encode, decodeWord, decode5]

theorem ldKk (x : RegIx) (kk : Byte) : Statement (.ldKk x kk) := fun _ => by simp [encode, decodeWord]

theorem addKk (x : RegIx) (kk : Byte) : Statement (.addKk x kk) := fun _ => by simp [encode, decodeWord]

theorem ldVy (x y : RegIx) : Statement (.ldVy x y) := fun _ => by simp [encode, decodeWord, decode8]

theorem orVy (x y : RegIx) : Statement (.orVy x y) := fun _ => by simp [encode, decodeWord, decode8]

theorem andVy (x y : RegIx) : Statement (.andVy x y) := fun _ => by simp [encode, decodeWord, decode8]

theorem xorVy (x y : RegIx) : Statement (.xorVy x y) := fun _ => by simp [encode, decodeWord, decode8]

theorem addVy (x y : RegIx) : Statement (.addVy x y) := fun _ => by simp [encode, decodeWord, decode8]

theorem sub (x y : RegIx) : Statement (.sub x y) := fun _ => by simp [encode, decodeWord, decode8]

theorem shr (x y : RegIx) : Statement (.shr x y) := fun _ => by simp [encode, decodeWord, decode8]

theorem subn (x y : RegIx) : Statement (.subn x y) := fun _ => by simp [encode, decodeWord, decode8]

theorem shl (x y : RegIx) : Statement (.shl x y) := fun _ => by simp [encode, decodeWord, decode8]

theorem sneVy (x y : RegIx) : Statement (.sneVy x y) := fun _ => by simp [encode, decodeWord, decode9]

theorem ldI (nnn : Addr12) : Statement (.ldI nnn) := fun _ => by simp [encode, decodeWord]

theorem jpV0 (nnn : Addr12) : Statement (.jpV0 nnn) := fun _ => by simp [encode, decodeWord]

theorem rnd (x : RegIx) (kk : Byte) : Statement (.rnd x kk) := fun _ => by simp [encode, decodeWord]

theorem drw (x y n : Fin 16) : Statement (.drw x y n) := fun _ => by simp [encode, decodeWord]

theorem skp (x : RegIx) : Statement (.skp x) := fun _ => by simp [encode, decodeWord, decodeE]

theorem sknp (x : RegIx) : Statement (.sknp x) := fun _ => by simp [encode, decodeWord, decodeE]

theorem ldVxDt (x : RegIx) : Statement (.ldVxDt x) := fun _ => by simp [encode, decodeWord, decodeF]

theorem ldVxK (x : RegIx) : Statement (.ldVxK x) := fun _ => by simp [encode, decodeWord, decodeF]

theorem ldDtVx (x : RegIx) : Statement (.ldDtVx x) := fun _ => by simp [encode, decodeWord, decodeF]

theorem ldStVx (x : RegIx) : Statement (.ldStVx x) := fun _ => by simp [encode, decodeWord, decodeF]

theorem addI (x : RegIx) : Statement (.addI x) := fun _ => by simp [encode, decodeWord, decodeF]

theorem ldF (x : RegIx) : Statement (.ldF x) := fun _ => by simp [encode, decodeWord, decodeF]

theorem ldB (x : RegIx) : Statement (.ldB x) := fun _ => by simp [encode, decodeWord, decodeF]

theorem stRegs (x : RegIx) : Statement (.stRegs x) := fun _ => by simp [encode, decodeWord, decodeF]

theorem ldRegs (x : RegIx) : Statement (.ldRegs x) := fun _ => by simp [encode, decodeWord, decodeF]

theorem reserved5 (x y n : Fin 16) : Statement (.reserved5 x y n) := by
  intro h
  have h0 : n ≠ 0 := by rintro rfl; simp [wellFormed] at h
  simp [encode, decodeWord, decode5, h0]

theorem reserved8 (x y n : Fin 16) : Statement (.reserved8 x y n) := by
  intro h
  have hd : decode8 x y n = .reserved8 x y n := by
    unfold decode8
    split <;> first | rfl | (simp_all [wellFormed, aluCode])
  simpa [encode, decodeWord] using hd

theorem reserved9 (x y n : Fin 16) : Statement (.reserved9 x y n) := by
  intro h
  have h0 : n ≠ 0 := by rintro rfl; simp [wellFormed] at h
  simp [encode, decodeWord, decode9, h0]

theorem reservedE (x : RegIx) (kk : Byte) : Statement (.reservedE x kk) := by
  intro h
  simp [wellFormed, keyCode] at h
  simp [encode, decodeWord, decodeE, h]

theorem reservedF (x : RegIx) (kk : Byte) : Statement (.reservedF x kk) := by
  intro h
  simp [wellFormed, miscCode] at h
  simp [encode, decodeWord, decodeF, h]

end Sys2Proof.Laws.RoundTrip
end

