-- ==== Sys2Proof/Laws/Encoding.lean ====
section
/-! SUPPORT. The decoder family by family, and the opcode table's masks as arithmetic. -/

namespace Sys2Proof.Laws

/-! ## From the round trip to `Encodes` -/

/-- An instruction whose round trip holds is what its number encodes. -/
theorem encodes_of {i : Instr} {w : Nat} (hr : RoundTrip.Statement i) (hw : wellFormed i = true)
    (h : (encode i).toNat = w) : Machine.Encodes w i :=
  ⟨by rw [← h, decodeTableWord_16, hr hw], h⟩

/-! ## The second level of the decoder (30_encoding.md R84, R85): well formed, and no bit dropped -/

theorem fin16_cases (h : Fin 16) :
    h = 0 ∨ h = 1 ∨ h = 2 ∨ h = 3 ∨ h = 4 ∨ h = 5 ∨ h = 6 ∨ h = 7 ∨ h = 8 ∨ h = 9 ∨ h = 10 ∨ h = 11 ∨ h = 12 ∨
      h = 13 ∨ h = 14 ∨ h = 15 := by
  revert h; decide

theorem decode0_spec (nnn : Addr12) :
    wellFormed (decode0 nnn) = true ∧ encode (decode0 nnn) = wordNnn 0 nnn := by
  unfold decode0
  split
  · subst_vars; decide
  · split
    · subst_vars; decide
    · simp_all [wellFormed, encode]

theorem decode5_spec (x y n : Fin 16) :
    wellFormed (decode5 x y n) = true ∧ encode (decode5 x y n) = wordXyn 5 x y n := by
  unfold decode5
  split
  · subst_vars; exact ⟨rfl, rfl⟩
  · next h => exact ⟨by simpa [wellFormed] using h, rfl⟩

theorem decode8_spec (x y n : Fin 16) :
    wellFormed (decode8 x y n) = true ∧ encode (decode8 x y n) = wordXyn 8 x y n := by
  rcases fin16_cases n with rfl|rfl|rfl|rfl|rfl|rfl|rfl|rfl|rfl|rfl|rfl|rfl|rfl|rfl|rfl|rfl <;> exact ⟨rfl, rfl⟩

theorem decode9_spec (x y n : Fin 16) :
    wellFormed (decode9 x y n) = true ∧ encode (decode9 x y n) = wordXyn 9 x y n := by
  unfold decode9
  split
  · subst_vars; exact ⟨rfl, rfl⟩
  · next h => exact ⟨by simpa [wellFormed] using h, rfl⟩

theorem decodeE_spec (x : RegIx) (kk : Byte) :
    wellFormed (decodeE x kk) = true ∧ encode (decodeE x kk) = wordXkk 14 x kk := by
  unfold decodeE
  repeat (split; · subst_vars; exact ⟨rfl, rfl⟩)
  refine ⟨?_, rfl⟩
  simp_all [wellFormed, keyCode]

theorem decodeF_spec (x : RegIx) (kk : Byte) :
    wellFormed (decodeF x kk) = true ∧ encode (decodeF x kk) = wordXkk 15 x kk := by
  unfold decodeF
  repeat (split; · subst_vars; exact ⟨rfl, rfl⟩)
  refine ⟨?_, rfl⟩
  simp_all [wellFormed, miscCode]

/-! ## The masks of the opcode table -/

/-- Masking splits into the low nibble and the rest. -/
theorem and_split (w m : Nat) : w &&& m = 16 * (w / 16 &&& m / 16) + (w % 16 &&& m % 16) := by
  have h1 : (w &&& m) / 2 ^ 4 = w / 2 ^ 4 &&& m / 2 ^ 4 := Nat.and_div_two_pow
  have h2 : (w &&& m) % 2 ^ 4 = w % 2 ^ 4 &&& m % 2 ^ 4 := Nat.and_mod_two_pow
  simp only [show (2 : Nat) ^ 4 = 16 from rfl] at h1 h2
  rw [← h1, ← h2]
  exact (Nat.div_add_mod _ 16).symm

theorem and_F (w : Nat) : w &&& 0xF = w % 16 := Nat.and_two_pow_sub_one_eq_mod w 4

theorem mask_F000 (w : Nat) (hw : w < 65536) : w &&& 0xF000 = 4096 * (w / 4096) := by
  rw [and_split, and_split (w / 16), and_split (w / 16 / 16)]
  simp only [Nat.reduceDiv, Nat.reduceMod, and_F, Nat.and_zero]
  omega

theorem mask_F00F (w : Nat) (hw : w < 65536) : w &&& 0xF00F = 4096 * (w / 4096) + w % 16 := by
  rw [and_split, and_split (w / 16), and_split (w / 16 / 16)]
  simp only [Nat.reduceDiv, Nat.reduceMod, and_F, Nat.and_zero]
  omega

theorem mask_F0FF (w : Nat) (hw : w < 65536) : w &&& 0xF0FF = 4096 * (w / 4096) + w % 256 := by
  rw [and_split, and_split (w / 16), and_split (w / 16 / 16)]
  simp only [Nat.reduceDiv, Nat.reduceMod, and_F, Nat.and_zero]
  omega

theorem mask_FFFF (w : Nat) (hw : w < 65536) : w &&& 0xFFFF = w := by
  rw [show (0xFFFF : Nat) = 2 ^ 16 - 1 from rfl, Nat.and_two_pow_sub_one_eq_mod, Nat.mod_eq_of_lt hw]

end Sys2Proof.Laws
end

