-- ==== Sys2Proof/Laws/State.lean ====
section
/-! SUPPORT. One lemma for each field of State and each update, and for each accessor an update does not reach. -/

namespace Sys2Proof.Machine

variable (s : State)

/-! ### setReg -/

@[simp] theorem State.setReg_v (x : RegIx) (b : Byte) : (s.setReg x b).v = s.v.set x.val b := rfl
@[simp] theorem State.setReg_pc (x : RegIx) (b : Byte) : (s.setReg x b).pc = s.pc := rfl
@[simp] theorem State.setReg_i (x : RegIx) (b : Byte) : (s.setReg x b).i = s.i := rfl
@[simp] theorem State.setReg_sp (x : RegIx) (b : Byte) : (s.setReg x b).sp = s.sp := rfl
@[simp] theorem State.setReg_stack (x : RegIx) (b : Byte) : (s.setReg x b).stack = s.stack := rfl
@[simp] theorem State.setReg_dt (x : RegIx) (b : Byte) : (s.setReg x b).dt = s.dt := rfl
@[simp] theorem State.setReg_st (x : RegIx) (b : Byte) : (s.setReg x b).st = s.st := rfl
@[simp] theorem State.setReg_mem (x : RegIx) (b : Byte) : (s.setReg x b).mem = s.mem := rfl
@[simp] theorem State.setReg_fb (x : RegIx) (b : Byte) : (s.setReg x b).fb = s.fb := rfl
@[simp] theorem State.setReg_key (x : RegIx) (b : Byte) : (s.setReg x b).key = s.key := rfl
@[simp] theorem State.setReg_fault (x : RegIx) (b : Byte) : (s.setReg x b).fault = s.fault := rfl
@[simp] theorem State.setReg_cfg (x : RegIx) (b : Byte) : (s.setReg x b).cfg = s.cfg := rfl
@[simp] theorem State.setReg_draws (x : RegIx) (b : Byte) : (s.setReg x b).draws = s.draws := rfl
@[simp] theorem State.setReg_schedule (x : RegIx) (b : Byte) : (s.setReg x b).schedule = s.schedule := rfl
@[simp] theorem State.setReg_slot (x : RegIx) (b : Byte) (k : Fin 16) : (s.setReg x b).slot k = s.slot k := rfl
@[simp] theorem State.setReg_readByte (x : RegIx) (b : Byte) (addr : Nat) : (s.setReg x b).readByte addr = s.readByte addr := rfl
@[simp] theorem State.setReg_pixel (x : RegIx) (b : Byte) (px py : Nat) : (s.setReg x b).pixel px py = s.pixel px py := rfl
@[simp] theorem State.setReg_keyDown (x : RegIx) (b : Byte) (k : KeyIx) : (s.setReg x b).keyDown k = s.keyDown k := rfl

/-! ### setI -/

@[simp] theorem State.setI_v (w : Word) : (s.setI w).v = s.v := rfl
@[simp] theorem State.setI_pc (w : Word) : (s.setI w).pc = s.pc := rfl
@[simp] theorem State.setI_i (w : Word) : (s.setI w).i = w := rfl
@[simp] theorem State.setI_sp (w : Word) : (s.setI w).sp = s.sp := rfl
@[simp] theorem State.setI_stack (w : Word) : (s.setI w).stack = s.stack := rfl
@[simp] theorem State.setI_dt (w : Word) : (s.setI w).dt = s.dt := rfl
@[simp] theorem State.setI_st (w : Word) : (s.setI w).st = s.st := rfl
@[simp] theorem State.setI_mem (w : Word) : (s.setI w).mem = s.mem := rfl
@[simp] theorem State.setI_fb (w : Word) : (s.setI w).fb = s.fb := rfl
@[simp] theorem State.setI_key (w : Word) : (s.setI w).key = s.key := rfl
@[simp] theorem State.setI_fault (w : Word) : (s.setI w).fault = s.fault := rfl
@[simp] theorem State.setI_cfg (w : Word) : (s.setI w).cfg = s.cfg := rfl
@[simp] theorem State.setI_draws (w : Word) : (s.setI w).draws = s.draws := rfl
@[simp] theorem State.setI_schedule (w : Word) : (s.setI w).schedule = s.schedule := rfl
@[simp] theorem State.setI_reg (w : Word) (r : RegIx) : (s.setI w).reg r = s.reg r := rfl
@[simp] theorem State.setI_slot (w : Word) (k : Fin 16) : (s.setI w).slot k = s.slot k := rfl
@[simp] theorem State.setI_readByte (w : Word) (addr : Nat) : (s.setI w).readByte addr = s.readByte addr := rfl
@[simp] theorem State.setI_pixel (w : Word) (px py : Nat) : (s.setI w).pixel px py = s.pixel px py := rfl
@[simp] theorem State.setI_keyDown (w : Word) (k : KeyIx) : (s.setI w).keyDown k = s.keyDown k := rfl

/-! ### setDt -/

@[simp] theorem State.setDt_v (b : Byte) : (s.setDt b).v = s.v := rfl
@[simp] theorem State.setDt_pc (b : Byte) : (s.setDt b).pc = s.pc := rfl
@[simp] theorem State.setDt_i (b : Byte) : (s.setDt b).i = s.i := rfl
@[simp] theorem State.setDt_sp (b : Byte) : (s.setDt b).sp = s.sp := rfl
@[simp] theorem State.setDt_stack (b : Byte) : (s.setDt b).stack = s.stack := rfl
@[simp] theorem State.setDt_dt (b : Byte) : (s.setDt b).dt = b := rfl
@[simp] theorem State.setDt_st (b : Byte) : (s.setDt b).st = s.st := rfl
@[simp] theorem State.setDt_mem (b : Byte) : (s.setDt b).mem = s.mem := rfl
@[simp] theorem State.setDt_fb (b : Byte) : (s.setDt b).fb = s.fb := rfl
@[simp] theorem State.setDt_key (b : Byte) : (s.setDt b).key = s.key := rfl
@[simp] theorem State.setDt_fault (b : Byte) : (s.setDt b).fault = s.fault := rfl
@[simp] theorem State.setDt_cfg (b : Byte) : (s.setDt b).cfg = s.cfg := rfl
@[simp] theorem State.setDt_draws (b : Byte) : (s.setDt b).draws = s.draws := rfl
@[simp] theorem State.setDt_schedule (b : Byte) : (s.setDt b).schedule = s.schedule := rfl
@[simp] theorem State.setDt_reg (b : Byte) (r : RegIx) : (s.setDt b).reg r = s.reg r := rfl
@[simp] theorem State.setDt_slot (b : Byte) (k : Fin 16) : (s.setDt b).slot k = s.slot k := rfl
@[simp] theorem State.setDt_readByte (b : Byte) (addr : Nat) : (s.setDt b).readByte addr = s.readByte addr := rfl
@[simp] theorem State.setDt_pixel (b : Byte) (px py : Nat) : (s.setDt b).pixel px py = s.pixel px py := rfl
@[simp] theorem State.setDt_keyDown (b : Byte) (k : KeyIx) : (s.setDt b).keyDown k = s.keyDown k := rfl

/-! ### setSt -/

@[simp] theorem State.setSt_v (b : Byte) : (s.setSt b).v = s.v := rfl
@[simp] theorem State.setSt_pc (b : Byte) : (s.setSt b).pc = s.pc := rfl
@[simp] theorem State.setSt_i (b : Byte) : (s.setSt b).i = s.i := rfl
@[simp] theorem State.setSt_sp (b : Byte) : (s.setSt b).sp = s.sp := rfl
@[simp] theorem State.setSt_stack (b : Byte) : (s.setSt b).stack = s.stack := rfl
@[simp] theorem State.setSt_dt (b : Byte) : (s.setSt b).dt = s.dt := rfl
@[simp] theorem State.setSt_st (b : Byte) : (s.setSt b).st = b := rfl
@[simp] theorem State.setSt_mem (b : Byte) : (s.setSt b).mem = s.mem := rfl
@[simp] theorem State.setSt_fb (b : Byte) : (s.setSt b).fb = s.fb := rfl
@[simp] theorem State.setSt_key (b : Byte) : (s.setSt b).key = s.key := rfl
@[simp] theorem State.setSt_fault (b : Byte) : (s.setSt b).fault = s.fault := rfl
@[simp] theorem State.setSt_cfg (b : Byte) : (s.setSt b).cfg = s.cfg := rfl
@[simp] theorem State.setSt_draws (b : Byte) : (s.setSt b).draws = s.draws := rfl
@[simp] theorem State.setSt_schedule (b : Byte) : (s.setSt b).schedule = s.schedule := rfl
@[simp] theorem State.setSt_reg (b : Byte) (r : RegIx) : (s.setSt b).reg r = s.reg r := rfl
@[simp] theorem State.setSt_slot (b : Byte) (k : Fin 16) : (s.setSt b).slot k = s.slot k := rfl
@[simp] theorem State.setSt_readByte (b : Byte) (addr : Nat) : (s.setSt b).readByte addr = s.readByte addr := rfl
@[simp] theorem State.setSt_pixel (b : Byte) (px py : Nat) : (s.setSt b).pixel px py = s.pixel px py := rfl
@[simp] theorem State.setSt_keyDown (b : Byte) (k : KeyIx) : (s.setSt b).keyDown k = s.keyDown k := rfl

/-! ### setPc -/

@[simp] theorem State.setPc_v (w : Word) : (s.setPc w).v = s.v := rfl
@[simp] theorem State.setPc_pc (w : Word) : (s.setPc w).pc = w := rfl
@[simp] theorem State.setPc_i (w : Word) : (s.setPc w).i = s.i := rfl
@[simp] theorem State.setPc_sp (w : Word) : (s.setPc w).sp = s.sp := rfl
@[simp] theorem State.setPc_stack (w : Word) : (s.setPc w).stack = s.stack := rfl
@[simp] theorem State.setPc_dt (w : Word) : (s.setPc w).dt = s.dt := rfl
@[simp] theorem State.setPc_st (w : Word) : (s.setPc w).st = s.st := rfl
@[simp] theorem State.setPc_mem (w : Word) : (s.setPc w).mem = s.mem := rfl
@[simp] theorem State.setPc_fb (w : Word) : (s.setPc w).fb = s.fb := rfl
@[simp] theorem State.setPc_key (w : Word) : (s.setPc w).key = s.key := rfl
@[simp] theorem State.setPc_fault (w : Word) : (s.setPc w).fault = s.fault := rfl
@[simp] theorem State.setPc_cfg (w : Word) : (s.setPc w).cfg = s.cfg := rfl
@[simp] theorem State.setPc_draws (w : Word) : (s.setPc w).draws = s.draws := rfl
@[simp] theorem State.setPc_schedule (w : Word) : (s.setPc w).schedule = s.schedule := rfl
@[simp] theorem State.setPc_reg (w : Word) (r : RegIx) : (s.setPc w).reg r = s.reg r := rfl
@[simp] theorem State.setPc_slot (w : Word) (k : Fin 16) : (s.setPc w).slot k = s.slot k := rfl
@[simp] theorem State.setPc_readByte (w : Word) (addr : Nat) : (s.setPc w).readByte addr = s.readByte addr := rfl
@[simp] theorem State.setPc_pixel (w : Word) (px py : Nat) : (s.setPc w).pixel px py = s.pixel px py := rfl
@[simp] theorem State.setPc_keyDown (w : Word) (k : KeyIx) : (s.setPc w).keyDown k = s.keyDown k := rfl

/-! ### setSlot -/

@[simp] theorem State.setSlot_v (j : Fin 16) (w : Word) : (s.setSlot j w).v = s.v := rfl
@[simp] theorem State.setSlot_pc (j : Fin 16) (w : Word) : (s.setSlot j w).pc = s.pc := rfl
@[simp] theorem State.setSlot_i (j : Fin 16) (w : Word) : (s.setSlot j w).i = s.i := rfl
@[simp] theorem State.setSlot_sp (j : Fin 16) (w : Word) : (s.setSlot j w).sp = s.sp := rfl
@[simp] theorem State.setSlot_stack (j : Fin 16) (w : Word) : (s.setSlot j w).stack = s.stack.set j.val w := rfl
@[simp] theorem State.setSlot_dt (j : Fin 16) (w : Word) : (s.setSlot j w).dt = s.dt := rfl
@[simp] theorem State.setSlot_st (j : Fin 16) (w : Word) : (s.setSlot j w).st = s.st := rfl
@[simp] theorem State.setSlot_mem (j : Fin 16) (w : Word) : (s.setSlot j w).mem = s.mem := rfl
@[simp] theorem State.setSlot_fb (j : Fin 16) (w : Word) : (s.setSlot j w).fb = s.fb := rfl
@[simp] theorem State.setSlot_key (j : Fin 16) (w : Word) : (s.setSlot j w).key = s.key := rfl
@[simp] theorem State.setSlot_fault (j : Fin 16) (w : Word) : (s.setSlot j w).fault = s.fault := rfl
@[simp] theorem State.setSlot_cfg (j : Fin 16) (w : Word) : (s.setSlot j w).cfg = s.cfg := rfl
@[simp] theorem State.setSlot_draws (j : Fin 16) (w : Word) : (s.setSlot j w).draws = s.draws := rfl
@[simp] theorem State.setSlot_schedule (j : Fin 16) (w : Word) : (s.setSlot j w).schedule = s.schedule := rfl
@[simp] theorem State.setSlot_reg (j : Fin 16) (w : Word) (r : RegIx) : (s.setSlot j w).reg r = s.reg r := rfl
@[simp] theorem State.setSlot_readByte (j : Fin 16) (w : Word) (addr : Nat) : (s.setSlot j w).readByte addr = s.readByte addr := rfl
@[simp] theorem State.setSlot_pixel (j : Fin 16) (w : Word) (px py : Nat) : (s.setSlot j w).pixel px py = s.pixel px py := rfl
@[simp] theorem State.setSlot_keyDown (j : Fin 16) (w : Word) (k : KeyIx) : (s.setSlot j w).keyDown k = s.keyDown k := rfl

/-! ### setSp -/

@[simp] theorem State.setSp_v (b : Byte) : (s.setSp b).v = s.v := rfl
@[simp] theorem State.setSp_pc (b : Byte) : (s.setSp b).pc = s.pc := rfl
@[simp] theorem State.setSp_i (b : Byte) : (s.setSp b).i = s.i := rfl
@[simp] theorem State.setSp_sp (b : Byte) : (s.setSp b).sp = b := rfl
@[simp] theorem State.setSp_stack (b : Byte) : (s.setSp b).stack = s.stack := rfl
@[simp] theorem State.setSp_dt (b : Byte) : (s.setSp b).dt = s.dt := rfl
@[simp] theorem State.setSp_st (b : Byte) : (s.setSp b).st = s.st := rfl
@[simp] theorem State.setSp_mem (b : Byte) : (s.setSp b).mem = s.mem := rfl
@[simp] theorem State.setSp_fb (b : Byte) : (s.setSp b).fb = s.fb := rfl
@[simp] theorem State.setSp_key (b : Byte) : (s.setSp b).key = s.key := rfl
@[simp] theorem State.setSp_fault (b : Byte) : (s.setSp b).fault = s.fault := rfl
@[simp] theorem State.setSp_cfg (b : Byte) : (s.setSp b).cfg = s.cfg := rfl
@[simp] theorem State.setSp_draws (b : Byte) : (s.setSp b).draws = s.draws := rfl
@[simp] theorem State.setSp_schedule (b : Byte) : (s.setSp b).schedule = s.schedule := rfl
@[simp] theorem State.setSp_reg (b : Byte) (r : RegIx) : (s.setSp b).reg r = s.reg r := rfl
@[simp] theorem State.setSp_slot (b : Byte) (k : Fin 16) : (s.setSp b).slot k = s.slot k := rfl
@[simp] theorem State.setSp_readByte (b : Byte) (addr : Nat) : (s.setSp b).readByte addr = s.readByte addr := rfl
@[simp] theorem State.setSp_pixel (b : Byte) (px py : Nat) : (s.setSp b).pixel px py = s.pixel px py := rfl
@[simp] theorem State.setSp_keyDown (b : Byte) (k : KeyIx) : (s.setSp b).keyDown k = s.keyDown k := rfl

/-! ### setFb -/

@[simp] theorem State.setFb_v (f : Vector (BitVec 64) 32) : (s.setFb f).v = s.v := rfl
@[simp] theorem State.setFb_pc (f : Vector (BitVec 64) 32) : (s.setFb f).pc = s.pc := rfl
@[simp] theorem State.setFb_i (f : Vector (BitVec 64) 32) : (s.setFb f).i = s.i := rfl
@[simp] theorem State.setFb_sp (f : Vector (BitVec 64) 32) : (s.setFb f).sp = s.sp := rfl
@[simp] theorem State.setFb_stack (f : Vector (BitVec 64) 32) : (s.setFb f).stack = s.stack := rfl
@[simp] theorem State.setFb_dt (f : Vector (BitVec 64) 32) : (s.setFb f).dt = s.dt := rfl
@[simp] theorem State.setFb_st (f : Vector (BitVec 64) 32) : (s.setFb f).st = s.st := rfl
@[simp] theorem State.setFb_mem (f : Vector (BitVec 64) 32) : (s.setFb f).mem = s.mem := rfl
@[simp] theorem State.setFb_fb (f : Vector (BitVec 64) 32) : (s.setFb f).fb = f := rfl
@[simp] theorem State.setFb_key (f : Vector (BitVec 64) 32) : (s.setFb f).key = s.key := rfl
@[simp] theorem State.setFb_fault (f : Vector (BitVec 64) 32) : (s.setFb f).fault = s.fault := rfl
@[simp] theorem State.setFb_cfg (f : Vector (BitVec 64) 32) : (s.setFb f).cfg = s.cfg := rfl
@[simp] theorem State.setFb_draws (f : Vector (BitVec 64) 32) : (s.setFb f).draws = s.draws := rfl
@[simp] theorem State.setFb_schedule (f : Vector (BitVec 64) 32) : (s.setFb f).schedule = s.schedule := rfl
@[simp] theorem State.setFb_reg (f : Vector (BitVec 64) 32) (r : RegIx) : (s.setFb f).reg r = s.reg r := rfl
@[simp] theorem State.setFb_slot (f : Vector (BitVec 64) 32) (k : Fin 16) : (s.setFb f).slot k = s.slot k := rfl
@[simp] theorem State.setFb_readByte (f : Vector (BitVec 64) 32) (addr : Nat) : (s.setFb f).readByte addr = s.readByte addr := rfl
@[simp] theorem State.setFb_keyDown (f : Vector (BitVec 64) 32) (k : KeyIx) : (s.setFb f).keyDown k = s.keyDown k := rfl

/-! ### setKey -/

@[simp] theorem State.setKey_v (j : KeyIx) (p : Bool) : (s.setKey j p).v = s.v := rfl
@[simp] theorem State.setKey_pc (j : KeyIx) (p : Bool) : (s.setKey j p).pc = s.pc := rfl
@[simp] theorem State.setKey_i (j : KeyIx) (p : Bool) : (s.setKey j p).i = s.i := rfl
@[simp] theorem State.setKey_sp (j : KeyIx) (p : Bool) : (s.setKey j p).sp = s.sp := rfl
@[simp] theorem State.setKey_stack (j : KeyIx) (p : Bool) : (s.setKey j p).stack = s.stack := rfl
@[simp] theorem State.setKey_dt (j : KeyIx) (p : Bool) : (s.setKey j p).dt = s.dt := rfl
@[simp] theorem State.setKey_st (j : KeyIx) (p : Bool) : (s.setKey j p).st = s.st := rfl
@[simp] theorem State.setKey_mem (j : KeyIx) (p : Bool) : (s.setKey j p).mem = s.mem := rfl
@[simp] theorem State.setKey_fb (j : KeyIx) (p : Bool) : (s.setKey j p).fb = s.fb := rfl
@[simp] theorem State.setKey_key (j : KeyIx) (p : Bool) : (s.setKey j p).key = s.key.set j.val p := rfl
@[simp] theorem State.setKey_fault (j : KeyIx) (p : Bool) : (s.setKey j p).fault = s.fault := rfl
@[simp] theorem State.setKey_cfg (j : KeyIx) (p : Bool) : (s.setKey j p).cfg = s.cfg := rfl
@[simp] theorem State.setKey_draws (j : KeyIx) (p : Bool) : (s.setKey j p).draws = s.draws := rfl
@[simp] theorem State.setKey_schedule (j : KeyIx) (p : Bool) : (s.setKey j p).schedule = s.schedule := rfl
@[simp] theorem State.setKey_reg (j : KeyIx) (p : Bool) (r : RegIx) : (s.setKey j p).reg r = s.reg r := rfl
@[simp] theorem State.setKey_slot (j : KeyIx) (p : Bool) (k : Fin 16) : (s.setKey j p).slot k = s.slot k := rfl
@[simp] theorem State.setKey_readByte (j : KeyIx) (p : Bool) (addr : Nat) : (s.setKey j p).readByte addr = s.readByte addr := rfl
@[simp] theorem State.setKey_pixel (j : KeyIx) (p : Bool) (px py : Nat) : (s.setKey j p).pixel px py = s.pixel px py := rfl

/-! ### raiseFault -/

@[simp] theorem State.raiseFault_v (c : FaultCode) (w : Word) : (s.raiseFault c w).v = s.v := rfl
@[simp] theorem State.raiseFault_pc (c : FaultCode) (w : Word) : (s.raiseFault c w).pc = s.pc := rfl
@[simp] theorem State.raiseFault_i (c : FaultCode) (w : Word) : (s.raiseFault c w).i = s.i := rfl
@[simp] theorem State.raiseFault_sp (c : FaultCode) (w : Word) : (s.raiseFault c w).sp = s.sp := rfl
@[simp] theorem State.raiseFault_stack (c : FaultCode) (w : Word) : (s.raiseFault c w).stack = s.stack := rfl
@[simp] theorem State.raiseFault_dt (c : FaultCode) (w : Word) : (s.raiseFault c w).dt = s.dt := rfl
@[simp] theorem State.raiseFault_st (c : FaultCode) (w : Word) : (s.raiseFault c w).st = s.st := rfl
@[simp] theorem State.raiseFault_mem (c : FaultCode) (w : Word) : (s.raiseFault c w).mem = s.mem := rfl
@[simp] theorem State.raiseFault_fb (c : FaultCode) (w : Word) : (s.raiseFault c w).fb = s.fb := rfl
@[simp] theorem State.raiseFault_key (c : FaultCode) (w : Word) : (s.raiseFault c w).key = s.key := rfl
@[simp] theorem State.raiseFault_fault (c : FaultCode) (w : Word) : (s.raiseFault c w).fault = some { code := c, addr := s.pc, opcode := w } := rfl
@[simp] theorem State.raiseFault_cfg (c : FaultCode) (w : Word) : (s.raiseFault c w).cfg = s.cfg := rfl
@[simp] theorem State.raiseFault_draws (c : FaultCode) (w : Word) : (s.raiseFault c w).draws = s.draws := rfl
@[simp] theorem State.raiseFault_schedule (c : FaultCode) (w : Word) : (s.raiseFault c w).schedule = s.schedule := rfl
@[simp] theorem State.raiseFault_reg (c : FaultCode) (w : Word) (r : RegIx) : (s.raiseFault c w).reg r = s.reg r := rfl
@[simp] theorem State.raiseFault_slot (c : FaultCode) (w : Word) (k : Fin 16) : (s.raiseFault c w).slot k = s.slot k := rfl
@[simp] theorem State.raiseFault_readByte (c : FaultCode) (w : Word) (addr : Nat) : (s.raiseFault c w).readByte addr = s.readByte addr := rfl
@[simp] theorem State.raiseFault_pixel (c : FaultCode) (w : Word) (px py : Nat) : (s.raiseFault c w).pixel px py = s.pixel px py := rfl
@[simp] theorem State.raiseFault_keyDown (c : FaultCode) (w : Word) (k : KeyIx) : (s.raiseFault c w).keyDown k = s.keyDown k := rfl

/-! ### writeByte -/

@[simp] theorem State.writeByte_v (n : Nat) (b : Byte) : (s.writeByte n b).v = s.v := rfl
@[simp] theorem State.writeByte_pc (n : Nat) (b : Byte) : (s.writeByte n b).pc = s.pc := rfl
@[simp] theorem State.writeByte_i (n : Nat) (b : Byte) : (s.writeByte n b).i = s.i := rfl
@[simp] theorem State.writeByte_sp (n : Nat) (b : Byte) : (s.writeByte n b).sp = s.sp := rfl
@[simp] theorem State.writeByte_stack (n : Nat) (b : Byte) : (s.writeByte n b).stack = s.stack := rfl
@[simp] theorem State.writeByte_dt (n : Nat) (b : Byte) : (s.writeByte n b).dt = s.dt := rfl
@[simp] theorem State.writeByte_st (n : Nat) (b : Byte) : (s.writeByte n b).st = s.st := rfl
@[simp] theorem State.writeByte_mem (n : Nat) (b : Byte) : (s.writeByte n b).mem = Memory.write s.cfg.font s.mem n b := rfl
@[simp] theorem State.writeByte_fb (n : Nat) (b : Byte) : (s.writeByte n b).fb = s.fb := rfl
@[simp] theorem State.writeByte_key (n : Nat) (b : Byte) : (s.writeByte n b).key = s.key := rfl
@[simp] theorem State.writeByte_fault (n : Nat) (b : Byte) : (s.writeByte n b).fault = s.fault := rfl
@[simp] theorem State.writeByte_cfg (n : Nat) (b : Byte) : (s.writeByte n b).cfg = s.cfg := rfl
@[simp] theorem State.writeByte_draws (n : Nat) (b : Byte) : (s.writeByte n b).draws = s.draws := rfl
@[simp] theorem State.writeByte_schedule (n : Nat) (b : Byte) : (s.writeByte n b).schedule = s.schedule := rfl
@[simp] theorem State.writeByte_reg (n : Nat) (b : Byte) (r : RegIx) : (s.writeByte n b).reg r = s.reg r := rfl
@[simp] theorem State.writeByte_slot (n : Nat) (b : Byte) (k : Fin 16) : (s.writeByte n b).slot k = s.slot k := rfl
@[simp] theorem State.writeByte_pixel (n : Nat) (b : Byte) (px py : Nat) : (s.writeByte n b).pixel px py = s.pixel px py := rfl
@[simp] theorem State.writeByte_keyDown (n : Nat) (b : Byte) (k : KeyIx) : (s.writeByte n b).keyDown k = s.keyDown k := rfl

/-! ### loadRegs -/

@[simp] theorem State.loadRegs_pc (n : Nat) (x : RegIx) : (s.loadRegs n x).pc = s.pc := by simp only [State.loadRegs]
@[simp] theorem State.loadRegs_i (n : Nat) (x : RegIx) : (s.loadRegs n x).i = s.i := by simp only [State.loadRegs]
@[simp] theorem State.loadRegs_sp (n : Nat) (x : RegIx) : (s.loadRegs n x).sp = s.sp := by simp only [State.loadRegs]
@[simp] theorem State.loadRegs_stack (n : Nat) (x : RegIx) : (s.loadRegs n x).stack = s.stack := by simp only [State.loadRegs]
@[simp] theorem State.loadRegs_dt (n : Nat) (x : RegIx) : (s.loadRegs n x).dt = s.dt := by simp only [State.loadRegs]
@[simp] theorem State.loadRegs_st (n : Nat) (x : RegIx) : (s.loadRegs n x).st = s.st := by simp only [State.loadRegs]
@[simp] theorem State.loadRegs_mem (n : Nat) (x : RegIx) : (s.loadRegs n x).mem = s.mem := by simp only [State.loadRegs]
@[simp] theorem State.loadRegs_fb (n : Nat) (x : RegIx) : (s.loadRegs n x).fb = s.fb := by simp only [State.loadRegs]
@[simp] theorem State.loadRegs_key (n : Nat) (x : RegIx) : (s.loadRegs n x).key = s.key := by simp only [State.loadRegs]
@[simp] theorem State.loadRegs_fault (n : Nat) (x : RegIx) : (s.loadRegs n x).fault = s.fault := by simp only [State.loadRegs]
@[simp] theorem State.loadRegs_cfg (n : Nat) (x : RegIx) : (s.loadRegs n x).cfg = s.cfg := by simp only [State.loadRegs]
@[simp] theorem State.loadRegs_draws (n : Nat) (x : RegIx) : (s.loadRegs n x).draws = s.draws := by simp only [State.loadRegs]
@[simp] theorem State.loadRegs_schedule (n : Nat) (x : RegIx) : (s.loadRegs n x).schedule = s.schedule := by simp only [State.loadRegs]
@[simp] theorem State.loadRegs_slot (n : Nat) (x : RegIx) (k : Fin 16) : (s.loadRegs n x).slot k = s.slot k := by simp only [State.loadRegs, State.slot]
@[simp] theorem State.loadRegs_readByte (n : Nat) (x : RegIx) (addr : Nat) : (s.loadRegs n x).readByte addr = s.readByte addr := by simp only [State.loadRegs, State.readByte]
@[simp] theorem State.loadRegs_pixel (n : Nat) (x : RegIx) (px py : Nat) : (s.loadRegs n x).pixel px py = s.pixel px py := by simp only [State.loadRegs, State.pixel]
@[simp] theorem State.loadRegs_keyDown (n : Nat) (x : RegIx) (k : KeyIx) : (s.loadRegs n x).keyDown k = s.keyDown k := by simp only [State.loadRegs, State.keyDown]

/-! ### writeBytes -/

@[simp] theorem State.writeBytes_v (n : Nat) (bs : List Byte) : (s.writeBytes n bs).v = s.v := rfl
@[simp] theorem State.writeBytes_pc (n : Nat) (bs : List Byte) : (s.writeBytes n bs).pc = s.pc := rfl
@[simp] theorem State.writeBytes_i (n : Nat) (bs : List Byte) : (s.writeBytes n bs).i = s.i := rfl
@[simp] theorem State.writeBytes_sp (n : Nat) (bs : List Byte) : (s.writeBytes n bs).sp = s.sp := rfl
@[simp] theorem State.writeBytes_stack (n : Nat) (bs : List Byte) : (s.writeBytes n bs).stack = s.stack := rfl
@[simp] theorem State.writeBytes_dt (n : Nat) (bs : List Byte) : (s.writeBytes n bs).dt = s.dt := rfl
@[simp] theorem State.writeBytes_st (n : Nat) (bs : List Byte) : (s.writeBytes n bs).st = s.st := rfl
@[simp] theorem State.writeBytes_mem (n : Nat) (bs : List Byte) : (s.writeBytes n bs).mem = Memory.writeList s.cfg.font s.mem n bs := rfl
@[simp] theorem State.writeBytes_fb (n : Nat) (bs : List Byte) : (s.writeBytes n bs).fb = s.fb := rfl
@[simp] theorem State.writeBytes_key (n : Nat) (bs : List Byte) : (s.writeBytes n bs).key = s.key := rfl
@[simp] theorem State.writeBytes_fault (n : Nat) (bs : List Byte) : (s.writeBytes n bs).fault = s.fault := rfl
@[simp] theorem State.writeBytes_cfg (n : Nat) (bs : List Byte) : (s.writeBytes n bs).cfg = s.cfg := rfl
@[simp] theorem State.writeBytes_draws (n : Nat) (bs : List Byte) : (s.writeBytes n bs).draws = s.draws := rfl
@[simp] theorem State.writeBytes_schedule (n : Nat) (bs : List Byte) : (s.writeBytes n bs).schedule = s.schedule := rfl
@[simp] theorem State.writeBytes_reg (n : Nat) (bs : List Byte) (r : RegIx) : (s.writeBytes n bs).reg r = s.reg r := rfl
@[simp] theorem State.writeBytes_slot (n : Nat) (bs : List Byte) (k : Fin 16) : (s.writeBytes n bs).slot k = s.slot k := rfl
@[simp] theorem State.writeBytes_pixel (n : Nat) (bs : List Byte) (px py : Nat) : (s.writeBytes n bs).pixel px py = s.pixel px py := rfl
@[simp] theorem State.writeBytes_keyDown (n : Nat) (bs : List Byte) (k : KeyIx) : (s.writeBytes n bs).keyDown k = s.keyDown k := rfl

/-! ### Updates that are other updates -/

@[simp] theorem State.setVf_eq (b : Byte) : s.setVf b = s.setReg vf b := rfl

@[simp] theorem State.advance_eq : s.advance = s.setPc (s.pc + 2#16) := rfl

theorem State.skipIf_eq (c : Bool) : s.skipIf c = s.setPc (if c then s.pc + 2#16 else s.pc) := by
  cases c <;> rfl

/-! ### Reading back -/

theorem State.setReg_reg (x r : RegIx) (b : Byte) : (s.setReg x b).reg r = if r = x then b else s.reg r := by
  simp only [State.reg, State.setReg, Vector.getElem_set, Fin.ext_iff]
  by_cases h : x.val = r.val <;> simp [h, eq_comm]

@[simp] theorem State.setReg_reg_same (x : RegIx) (b : Byte) : (s.setReg x b).reg x = b := by
  simp [State.setReg_reg]

theorem State.setReg_reg_ne {x r : RegIx} (h : r ≠ x) (b : Byte) : (s.setReg x b).reg r = s.reg r := by
  simp [State.setReg_reg, h]

theorem State.setSlot_slot (j k : Fin 16) (w : Word) : (s.setSlot j w).slot k = if k = j then w else s.slot k := by
  simp only [State.slot, State.setSlot, Vector.getElem_set, Fin.ext_iff]
  by_cases h : j.val = k.val <;> simp [h, eq_comm]

theorem State.setKey_keyDown (j k : KeyIx) (p : Bool) :
    (s.setKey j p).keyDown k = if k = j then p else s.keyDown k := by
  simp only [State.keyDown, State.setKey, Vector.getElem_set, Fin.ext_iff]
  by_cases h : j.val = k.val <;> simp [h, eq_comm]

theorem State.loadRegs_reg (n : Nat) (x r : RegIx) :
    (s.loadRegs n x).reg r = if r ≤ x then s.readByte (n + r.val) else s.reg r := by
  simp [State.reg, State.loadRegs]

theorem State.regsUpTo_length (x : RegIx) : (s.regsUpTo x).length = x.val + 1 := by
  simp [State.regsUpTo]

theorem State.regsUpTo_getElem (x : RegIx) (k : Nat) (h : k < (s.regsUpTo x).length) :
    (s.regsUpTo x)[k] = s.reg ⟨k, by have := s.regsUpTo_length x; omega⟩ := by
  simp [State.regsUpTo, State.reg]

end Sys2Proof.Machine
end

