-- ==== Sys2Proof/Laws/Framebuffer.lean ====
section
/-! SUPPORT. The laws of the sprite compositor (45_display.md R162, R163). -/

namespace Sys2Proof.Machine

theorem fbPixel_flipPixel (fb : Vector (BitVec 64) 32) {x y : Nat} (hx : x < 64) (hy : y < 32) (a b : Nat) :
    fbPixel (flipPixel fb x y) a b = (fbPixel fb a b ^^ decide (a = x ∧ b = y)) := by
  unfold fbPixel flipPixel
  rw [dif_pos hy]
  by_cases hb : b < 32
  · rw [dif_pos hb, dif_pos hb, Vector.getElem_set]
    by_cases hyb : y = b
    · subst hyb
      simp only [if_true, BitVec.getLsbD_xor, BitVec.getLsbD_twoPow, and_true, hx, decide_true, Bool.true_and]
      congr 1
      exact decide_eq_decide.2 eq_comm
    · simp [hyb, Ne.symm hyb]
  · rw [dif_neg hb, dif_neg hb]
    simp; omega

/-- A position off the grid holds no pixel. -/
theorem fbPixel_off_grid (fb : Vector (BitVec 64) 32) {x y : Nat} (h : ¬ (x < 64 ∧ y < 32)) :
    fbPixel fb x y = false := by
  unfold fbPixel
  split
  · exact BitVec.getLsbD_of_ge _ _ (by omega)
  · rfl

/-- Everything drawing a list of distinct pixels on the grid does to a pixel. -/
theorem fbPixel_drawPixels (ps : List (Nat × Nat)) (hnd : ps.Nodup) (hin : ∀ p ∈ ps, p.1 < 64 ∧ p.2 < 32)
    (fb : Vector (BitVec 64) 32) (hit : Bool) (a b : Nat) :
    fbPixel (drawPixels fb hit ps).1 a b = (fbPixel fb a b ^^ decide ((a, b) ∈ ps)) := by
  induction ps generalizing fb hit with
  | nil => simp [drawPixels]
  | cons p ps ih =>
    obtain ⟨x, y⟩ := p
    obtain ⟨hnot, hnd⟩ := List.nodup_cons.1 hnd
    have hxy := hin (x, y) (by simp)
    rw [drawPixels, ih hnd fun q hq => hin q (by simp [hq]), fbPixel_flipPixel _ hxy.1 hxy.2]
    by_cases h : a = x ∧ b = y
    · obtain ⟨rfl, rfl⟩ := h
      simp [hnot]
    · have : (a, b) ≠ (x, y) := fun he => h (by simpa using he)
      simp [h, this]

/-- A collision is a drawn pixel that was on before the draw. -/
theorem drawPixels_hit (ps : List (Nat × Nat)) (hnd : ps.Nodup) (hin : ∀ p ∈ ps, p.1 < 64 ∧ p.2 < 32)
    (fb : Vector (BitVec 64) 32) (hit : Bool) :
    (drawPixels fb hit ps).2 = (hit || ps.any fun p => fbPixel fb p.1 p.2) := by
  induction ps generalizing fb hit with
  | nil => simp [drawPixels]
  | cons p ps ih =>
    obtain ⟨x, y⟩ := p
    obtain ⟨hnot, hnd⟩ := List.nodup_cons.1 hnd
    have hxy := hin (x, y) (by simp)
    rw [drawPixels, ih hnd fun q hq => hin q (by simp [hq]), List.any_cons, Bool.or_assoc]
    congr 2
    rw [Bool.eq_iff_iff, List.any_eq_true, List.any_eq_true]
    refine exists_congr fun q => and_congr_right fun hq => ?_
    have : q ≠ (x, y) := fun he => hnot (he ▸ hq)
    rw [fbPixel_flipPixel _ hxy.1 hxy.2]
    have hne : ¬ (q.1 = x ∧ q.2 = y) := fun he => this (Prod.ext he.1 he.2)
    simp [hne]

/-- Which pixels one sprite row toggles. -/
theorem mem_rowPixels {xpos ty tx y : Nat} {b : Byte} :
    (tx, y) ∈ rowPixels xpos ty b ↔
      y = ty ∧ xpos ≤ tx ∧ tx < xpos + 8 ∧ tx < 64 ∧ ty < 32 ∧ b.getLsbD (7 - (tx - xpos)) = true := by
  simp only [rowPixels, List.mem_filterMap, List.mem_range, Bool.and_eq_true, decide_eq_true_eq,
    Option.ite_none_right_eq_some, Option.some.injEq, Prod.mk.injEq]
  have hw : fbW = 64 := rfl
  have hh : fbH = 32 := rfl
  constructor
  · rintro ⟨c, hc, ⟨⟨h1, h2⟩, h3⟩, rfl, rfl⟩
    rw [show xpos + c - xpos = c by omega]
    exact ⟨rfl, by omega, by omega, by omega, by omega, h1⟩
  · rintro ⟨rfl, h1, h2, h3, h4, h5⟩
    exact ⟨tx - xpos, by omega, ⟨⟨h5, by omega⟩, by omega⟩, by omega, rfl⟩

/-- Which pixels a sprite toggles: pixel (r, c) of the sprite lands on (xpos + c, ypos + r), on the grid only (R161, R162). -/
theorem State.mem_spritePixels {s : State} {xpos ypos n tx ty : Nat} :
    (tx, ty) ∈ s.spritePixels xpos ypos n ↔
      xpos ≤ tx ∧ tx < xpos + 8 ∧ tx < 64 ∧ ypos ≤ ty ∧ ty < ypos + n ∧ ty < 32 ∧
        (s.readByte (s.i.toNat + (ty - ypos))).getLsbD (7 - (tx - xpos)) = true := by
  simp only [State.spritePixels, List.mem_flatMap, List.mem_range, mem_rowPixels, State.dataAddr]
  constructor
  · rintro ⟨r, hr, rfl, h⟩
    rw [show ypos + r - ypos = r by omega]
    exact ⟨h.1, h.2.1, h.2.2.1, by omega, by omega, h.2.2.2⟩
  · rintro ⟨h1, h2, h3, h4, h5, h6, h7⟩
    refine ⟨ty - ypos, by omega, by omega, h1, h2, h3, by omega, h7⟩

theorem rowPixels_nodup (xpos ty : Nat) (b : Byte) : (rowPixels xpos ty b).Nodup := by
  refine List.Nodup.filterMap ?_ (List.nodup_range)
  intro c d p hc hd
  simp only [Option.mem_def, Option.ite_none_right_eq_some, Option.some.injEq] at hc hd
  have := congrArg Prod.fst (hc.2.trans hd.2.symm)
  simp only at this
  omega

theorem State.spritePixels_nodup (s : State) (xpos ypos n : Nat) : (s.spritePixels xpos ypos n).Nodup := by
  refine List.nodup_flatMap.2 ⟨fun r _ => rowPixels_nodup _ _ _, ?_⟩
  refine List.Nodup.pairwise_of_forall_ne List.nodup_range fun r _ q _ hne => ?_
  rintro ⟨tx, ty⟩ h1 h2
  rw [mem_rowPixels] at h1 h2
  omega

theorem State.spritePixels_on_grid {s : State} {xpos ypos n : Nat} :
    ∀ p ∈ s.spritePixels xpos ypos n, p.1 < 64 ∧ p.2 < 32 := by
  rintro ⟨tx, ty⟩ h
  have := State.mem_spritePixels.1 h
  exact ⟨this.2.2.1, this.2.2.2.2.2.1⟩

/-- Everything a sprite draw does to a pixel (R163 b). -/
theorem State.fbPixel_drawn (s : State) (x y n : Fin 16) (a b : Nat) :
    fbPixel (s.drawn x y n).1 a b =
      (s.pixel a b ^^ decide ((a, b) ∈ s.spritePixels (originX (s.reg x)) (originY (s.reg y)) n.val)) :=
  fbPixel_drawPixels _ (s.spritePixels_nodup ..) State.spritePixels_on_grid ..

/-- The collision of a sprite draw (R163 c). -/
theorem State.drawn_hit (s : State) (x y n : Fin 16) :
    (s.drawn x y n).2 =
      (s.spritePixels (originX (s.reg x)) (originY (s.reg y)) n.val).any fun p => s.pixel p.1 p.2 := by
  rw [State.drawn, drawPixels_hit _ (s.spritePixels_nodup ..) State.spritePixels_on_grid, Bool.false_or]
  rfl

@[simp] theorem fbPixel_clearScreen (a b : Nat) : fbPixel clearScreen a b = false := by
  unfold fbPixel clearScreen
  split <;> simp

end Sys2Proof.Machine
end

