-- ==== Sys2Proof/Laws/Memory.lean ====
section
/-! SUPPORT. The laws of memory: read after write, and every write keeps the canonical form. -/

namespace Sys2Proof.Machine

variable {font : Vector Byte 80} {m : Memory} {a c : Nat} {b : Byte}

theorem Memory.listed_insert : Memory.listed (Memory.insert a b m) c = if c = a then some b else Memory.listed m c := by
  induction m with
  | nil => simp [Memory.insert, Memory.listed, eq_comm]
  | cons d m ih =>
    obtain ⟨d, w⟩ := d
    simp only [Memory.insert]
    split
    · simp [Memory.listed, eq_comm]
    · split
      · next h => subst h; simp only [Memory.listed]; split <;> simp_all [eq_comm]
      · simp only [Memory.listed, ih]
        by_cases h : d = c
        · rw [if_pos h, if_pos h, if_neg (by omega)]
        · rw [if_neg h, if_neg h]

theorem Memory.listed_erase : Memory.listed (Memory.erase a m) c = if c = a then none else Memory.listed m c := by
  induction m with
  | nil => simp [Memory.erase, Memory.listed]
  | cons d m ih =>
    obtain ⟨d, w⟩ := d
    simp only [Memory.erase, List.filter_cons] at ih ⊢
    by_cases h : d = a
    · subst h
      simp only [bne_self_eq_false, Bool.false_eq_true, if_false, ih, Memory.listed]
      split <;> simp_all [eq_comm]
    · simp only [bne_iff_ne, ne_eq, h, not_false_eq_true, if_true, Memory.listed, ih]
      split <;> simp_all

/-- Everything one write does to every later read. -/
theorem Memory.read_write :
    Memory.read font (Memory.write font m a b) c = if c = a ∧ a < memSize then b else Memory.read font m c := by
  unfold Memory.write
  split
  · next hlt =>
    split
    · next hb =>
      simp only [Memory.read, Memory.listed_erase, hlt, and_true]
      split
      · next h => subst h; simp [hb]
      · rfl
    · simp only [Memory.read, Memory.listed_insert, hlt, and_true]
      split <;> simp
  · next hlt => simp [hlt]

theorem Memory.mem_insert {d : Host.Cell} (h : d ∈ Memory.insert a b m) : d = (a, b) ∨ d ∈ m := by
  induction m with
  | nil => simpa [Memory.insert] using h
  | cons e m ih =>
    obtain ⟨e, w⟩ := e
    simp only [Memory.insert] at h
    split at h
    · simpa using h
    · split at h
      · simp only [List.mem_cons] at h ⊢; tauto
      · simp only [List.mem_cons] at h ⊢
        rcases h with h | h
        · exact .inr (.inl h)
        · rcases ih h with h | h
          · exact .inl h
          · exact .inr (.inr h)

theorem Memory.pairwise_insert (h : m.Pairwise fun c d => c.1 < d.1) :
    (Memory.insert a b m).Pairwise fun c d => c.1 < d.1 := by
  induction m with
  | nil => simp [Memory.insert]
  | cons e m ih =>
    obtain ⟨e, w⟩ := e
    obtain ⟨he, hm⟩ := List.pairwise_cons.1 h
    simp only [Memory.insert]
    split
    · next hlt =>
      refine List.pairwise_cons.2 ⟨fun d hd => ?_, h⟩
      rcases List.mem_cons.1 hd with rfl | hd
      · exact hlt
      · exact Nat.lt_trans hlt (he d hd)
    · split
      · next heq => subst heq; exact List.pairwise_cons.2 ⟨he, hm⟩
      · refine List.pairwise_cons.2 ⟨fun d hd => ?_, ih hm⟩
        rcases Memory.mem_insert hd with rfl | hd
        · simp only; omega
        · exact he d hd

/-- A write keeps the canonical form. -/
theorem Memory.wf_write (h : Memory.wf font m) : Memory.wf font (Memory.write font m a b) := by
  unfold Memory.write
  split
  · next hlt =>
    split
    · refine ⟨h.1.filter _, fun d hd => h.2 d ?_⟩
      exact (List.mem_filter.1 hd).1
    · next hb =>
      refine ⟨Memory.pairwise_insert h.1, fun d hd => ?_⟩
      rcases Memory.mem_insert hd with rfl | hd
      · exact ⟨hlt, hb⟩
      · exact h.2 d hd
  · exact h

/-- Everything a run of stores does to every later read. -/
theorem Memory.read_writeList (bs : List Byte) :
    Memory.read font (Memory.writeList font m a bs) c =
      if h : a ≤ c ∧ c < a + bs.length ∧ c < memSize then bs[c - a]'(by omega) else Memory.read font m c := by
  induction bs generalizing m a with
  | nil => rw [dif_neg (by simp; omega)]; rfl
  | cons b bs ih =>
    simp only [Memory.writeList, ih, Memory.read_write, List.length_cons]
    by_cases h1 : a = c
    · subst h1
      rw [dif_neg (by omega)]
      by_cases h2 : a < memSize
      · rw [if_pos ⟨rfl, h2⟩, dif_pos ⟨Nat.le_refl _, by omega, h2⟩]; simp
      · rw [if_neg (by simp [h2]), dif_neg (by omega)]
    · by_cases h2 : a + 1 ≤ c ∧ c < a + 1 + bs.length ∧ c < memSize
      · rw [dif_pos h2, dif_pos (by omega), List.getElem_cons, dif_neg (by omega)]
        simp [Nat.sub_sub]
      · rw [dif_neg h2, if_neg (by omega), dif_neg (by omega)]

/-- A run of stores keeps the canonical form. -/
theorem Memory.wf_writeList (bs : List Byte) (h : Memory.wf font m) : Memory.wf font (Memory.writeList font m a bs) := by
  induction bs generalizing m a with
  | nil => exact h
  | cons b bs ih => exact ih (Memory.wf_write h)

/-! ## The state's memory -/

variable {s : State}

theorem State.readByte_writeByte :
    (s.writeByte a b).readByte c = if c = a ∧ a < memSize then b else s.readByte c := by
  simp only [State.readByte, State.writeByte, Memory.read_write]

theorem State.readByte_writeBytes (bs : List Byte) :
    (s.writeBytes a bs).readByte c =
      if h : a ≤ c ∧ c < a + bs.length ∧ c < memSize then bs[c - a]'(by omega) else s.readByte c :=
  Memory.read_writeList bs

/-- The memory after reset lists nothing and reads as 20_memory.md R51 says. -/
theorem State.initial_readByte (cfg : Config) (a : Nat) :
    (State.initial cfg).readByte a = Memory.background cfg.font a := rfl

/-- The font stands at 0x050 to 0x09F (10_state.md R38). -/
theorem Memory.background_font (f : Vector Byte 80) (k : Fin 80) : Memory.background f (0x050 + k.val) = f[k.val] := by
  unfold Memory.background
  rw [dif_pos (by simp [fontBase, fontSize]; omega)]
  simp [fontBase]

/-- Every other byte is 0 (R38). -/
theorem Memory.background_zero (f : Vector Byte 80) {a : Nat} (h : a < 0x050 ∨ 0x09F < a) :
    Memory.background f a = 0#8 := by
  unfold Memory.background
  rw [dif_neg (by simp [fontBase, fontSize]; omega)]

end Sys2Proof.Machine
end

