-- ==== Sys2Proof/Laws/Operands.lean ====
section
/-! SUPPORT. The operand forms and the flags as numbers. -/

namespace Sys2Proof

@[simp] theorem zext16_toNat (b : Byte) : (zext16 b).toNat = b.toNat := by
  simp only [zext16, BitVec.toNat_setWidth]; omega

@[simp] theorem addr16_toNat (a : Addr12) : (addr16 a).toNat = a.toNat := by
  simp only [addr16, BitVec.toNat_setWidth]; omega

namespace Machine

variable (s : State)

/-! ## Operands -/

/-- The bound of 20_memory.md R55 in the spec's words. -/
theorem State.dataOutside_iff (n : Nat) : s.dataOutside n = true ↔ 0 < n ∧ 0xFFF < s.i.toNat + n - 1 := by
  simp only [State.dataOutside, Bool.and_eq_true, decide_eq_true_eq]
  simp only [State.dataAddr, memSize]
  omega

/-- No rule's data range leaves memory without its instruction saying so. -/
theorem State.dataInside_iff (n : Nat) : s.dataOutside n = false ↔ n = 0 ∨ s.i.toNat + n ≤ 0x1000 := by
  simp only [State.dataOutside, Bool.and_eq_false_iff, decide_eq_false_iff_not]
  simp only [State.dataAddr, memSize]
  omega

theorem State.dataAddr_zero : s.dataAddr 0 = s.i.toNat := Nat.add_zero _

theorem originX_eq (b : Byte) : originX b = b.toNat % 64 := rfl

theorem originY_eq (b : Byte) : originY b = b.toNat % 32 := rfl

theorem State.offsetTarget_toNat (nnn : Addr12) :
    (s.offsetTarget nnn).toNat = nnn.toNat + (s.reg 0).toNat := by
  simp only [State.offsetTarget, BitVec.toNat_add, addr16_toNat, zext16_toNat]
  omega

theorem lowNibble_toNat (b : Byte) : (b &&& 0x0F#8).toNat = b.toNat % 16 := by
  rw [BitVec.toNat_and]
  exact Nat.and_two_pow_sub_one_eq_mod b.toNat 4

theorem glyphAddr_toNat (b : Byte) : (glyphAddr b).toNat = 0x050 + 5 * (b.toNat % 16) := by
  simp only [glyphAddr, lowNibble_toNat, fontBase, glyphBytes, BitVec.toNat_ofNat]
  omega

theorem bcdDigits_length (b : Byte) : (bcdDigits b).length = 3 := rfl

theorem bcdDigits_toNat (b : Byte) :
    (bcdDigits b).map BitVec.toNat = [b.toNat / 100, b.toNat / 10 % 10, b.toNat % 10] := by
  simp only [bcdDigits, List.map_cons, List.map_nil, BitVec.toNat_ofNat]
  congr 1
  · omega
  · congr 1
    · omega
    · congr 1; omega

/-! ## Flags -/

theorem flagByte_toNat (c : Bool) : (flagByte c).toNat = c.toNat := by cases c <;> rfl

theorem flagByte_eq_one (c : Bool) : flagByte c = 1#8 ↔ c = true := by cases c <;> decide

theorem flagByte_eq_zero (c : Bool) : flagByte c = 0#8 ↔ c = false := by cases c <;> decide

theorem addFlag_carry (a b : Byte) : (addFlag .carry a b).toNat = (a.toNat + b.toNat) / 256 := by
  simp only [addFlag, flagByte_toNat]
  by_cases h : 255 < a.toNat + b.toNat <;> simp [h] <;> omega

theorem addFlag_alwaysOne (a b : Byte) : addFlag .alwaysOne a b = 1#8 := rfl

theorem greaterFlag_toNat (a b : Byte) : (greaterFlag a b).toNat = if b.toNat < a.toNat then 1 else 0 := by
  rw [greaterFlag, flagByte_toNat]
  by_cases h : b.toNat < a.toNat <;> simp [h]

theorem greaterFlag_self (a : Byte) : greaterFlag a a = 0#8 := by simp [greaterFlag, flagByte]

theorem shrFlag_toNat (a : Byte) : (shrFlag a).toNat = a.toNat % 2 := by
  rw [shrFlag, BitVec.toNat_and]
  exact Nat.and_two_pow_sub_one_eq_mod a.toNat 1

theorem shlFlag_toNat (a : Byte) : (shlFlag a).toNat = a.toNat / 128 := by
  simp [shlFlag, Nat.shiftRight_eq_div_pow]

/-! ## The least pressed key -/

theorem State.firstKey_eq_none : s.firstKey = none ↔ ∀ k, s.keyDown k = false := by
  simp [State.firstKey, List.find?_eq_none]

/-- The key Fx0A stores is pressed, and no lower key is (46_keypad.md R173). -/
theorem State.firstKey_eq_some (k : KeyIx) :
    s.firstKey = some k ↔ s.keyDown k = true ∧ ∀ j, j < k → s.keyDown j = false := by
  have hlt : (List.finRange 16).Pairwise (· < ·) := by decide
  unfold State.firstKey
  constructor
  · intro h
    obtain ⟨hk, as, bs, hsplit, hnot⟩ := List.find?_eq_some_iff_append.1 h
    refine ⟨hk, fun j hj => ?_⟩
    have hmem : j ∈ as ++ k :: bs := hsplit ▸ List.mem_finRange j
    rw [hsplit] at hlt
    rcases List.mem_append.1 hmem with hja | hjb
    · simpa using hnot j hja
    · have hp := (List.pairwise_append.1 hlt).2.1
      rcases List.mem_cons.1 hjb with rfl | hjb
      · exact absurd hj (lt_irrefl _)
      · exact absurd ((List.pairwise_cons.1 hp).1 j hjb) (lt_asymm hj)
  · rintro ⟨hk, hlow⟩
    obtain ⟨as, bs, hsplit⟩ := List.append_of_mem (List.mem_finRange k)
    refine List.find?_eq_some_iff_append.2 ⟨hk, as, bs, hsplit, fun j hj => ?_⟩
    rw [hsplit] at hlt
    simp [hlow j ((List.pairwise_append.1 hlt).2.2 j hj k (by simp))]

end Machine
end Sys2Proof
end

