-- ==== Sys2Proof/Laws/Step.lean ====
section
/-! SUPPORT. What the meanings with a choice, the cycle and the step do, said once for each case. -/

namespace Sys2Proof.Machine

variable (s : State)

/-! ## Meanings with a choice -/

theorem execRet_underflow (h : s.sp = 0#8) : execRet s = .next (s.raiseFault .stackUnderflow (encode .ret)) := by
  simp [execRet, h]

theorem execRet_pop (h0 : s.sp ≠ 0#8) (h : s.sp.toNat < 16) :
    execRet s = .next ((s.setPc (s.slot ⟨s.sp.toNat, h⟩)).setSp (s.sp - 1#8)) := by
  simp [execRet, h0, h]

theorem execRet_missing (h : 16 ≤ s.sp.toNat) : execRet s = .fault .stackSlotMissing := by
  have h0 : s.sp ≠ 0#8 := by rintro h0; rw [h0] at h; simp at h
  simp [execRet, h0, Nat.not_lt.2 h]

theorem execCall_push (nnn : Addr12) (h : s.sp.toNat < 15) :
    execCall nnn s =
      .next (((s.setSp (s.sp + 1#8)).setSlot ⟨s.sp.toNat + 1, by omega⟩ (s.pc + 2#16)).setPc (addr16 nnn)) := by
  simp [execCall, h]

theorem execCall_overflow (nnn : Addr12) (h : 15 ≤ s.sp.toNat) :
    execCall nnn s = .next (s.raiseFault .stackOverflow (encode (.call nnn))) := by
  simp [execCall, Nat.not_lt.2 h]

theorem execSkp_key (x : RegIx) (h : (s.reg x).toNat < 16) :
    execSkp x s = .next (s.advance.skipIf (s.keyDown ⟨(s.reg x).toNat, h⟩)) := by
  simp [execSkp, h]

theorem execSkp_outside (x : RegIx) (h : 16 ≤ (s.reg x).toNat) :
    execSkp x s = .next (s.raiseFault .keyOob (encode (.skp x))) := by
  simp [execSkp, Nat.not_lt.2 h]

theorem execSknp_key (x : RegIx) (h : (s.reg x).toNat < 16) :
    execSknp x s = .next (s.advance.skipIf (!s.keyDown ⟨(s.reg x).toNat, h⟩)) := by
  simp [execSknp, h]

theorem execSknp_outside (x : RegIx) (h : 16 ≤ (s.reg x).toNat) :
    execSknp x s = .next (s.raiseFault .keyOob (encode (.sknp x))) := by
  simp [execSknp, Nat.not_lt.2 h]

theorem execLdVxK_some (x : RegIx) {k : KeyIx} (h : s.firstKey = some k) :
    execLdVxK x s = .next (s.advance.setReg x (BitVec.ofNat 8 k.val)) := by
  simp [execLdVxK, h]

theorem execLdVxK_none (x : RegIx) (h : s.firstKey = none) : execLdVxK x s = .next s := by
  simp [execLdVxK, h, State.setPc]

theorem execDrw_outside (x y n : Fin 16) (h : s.dataOutside n.val = true) :
    execDrw x y n s = .next (s.raiseFault .memOob (encode (.drw x y n))) := by
  simp [execDrw, h]

theorem execDrw_draw (x y n : Fin 16) (h : s.dataOutside n.val = false) :
    execDrw x y n s =
      .next ((s.advance.setFb (s.drawn x y n).1).setVf (collisionFlag (s.drawn x y n).2)) := by
  simp [execDrw, h]

theorem execLdB_outside (x : RegIx) (h : s.dataOutside 3 = true) :
    execLdB x s = .next (s.raiseFault .memOob (encode (.ldB x))) := by
  simp [execLdB, h]

theorem execLdB_store (x : RegIx) (h : s.dataOutside 3 = false) :
    execLdB x s = .next (s.advance.writeBytes (s.dataAddr 0) (bcdDigits (s.reg x))) := by
  simp [execLdB, h]

theorem execStRegs_outside (x : RegIx) (h : s.dataOutside (x.val + 1) = true) :
    execStRegs x s = .next (s.raiseFault .memOob (encode (.stRegs x))) := by
  simp [execStRegs, h]

theorem execStRegs_store (x : RegIx) (h : s.dataOutside (x.val + 1) = false) :
    execStRegs x s = .next (s.advance.writeBytes (s.dataAddr 0) (s.regsUpTo x)) := by
  simp [execStRegs, h]

theorem execLdRegs_outside (x : RegIx) (h : s.dataOutside (x.val + 1) = true) :
    execLdRegs x s = .next (s.raiseFault .memOob (encode (.ldRegs x))) := by
  simp [execLdRegs, h]

theorem execLdRegs_load (x : RegIx) (h : s.dataOutside (x.val + 1) = false) :
    execLdRegs x s = .next (s.advance.loadRegs (s.dataAddr 0) x) := by
  simp [execLdRegs, h]

theorem execReserved5_eq (x y n : Fin 16) :
    execReserved5 x y n s =
      .next (s.advance.skipIf (s.cfg.lowNibble59 == .ignore && s.reg x == s.reg y)) := by
  unfold execReserved5
  cases h : s.cfg.lowNibble59 <;> simp [State.skipIf]

theorem execReserved9_eq (x y n : Fin 16) :
    execReserved9 x y n s =
      .next (s.advance.skipIf (s.cfg.lowNibble59 == .ignore && s.reg x != s.reg y)) := by
  unfold execReserved9
  cases h : s.cfg.lowNibble59 <;> simp [State.skipIf]

/-! ## Flag first, result last (44_alu.md R140) -/

theorem setVf_reg (f : Byte) (x : RegIx) : (s.advance.setVf f).reg x = if x = 15 then f else s.reg x := by
  rw [State.setVf_eq, State.setReg_reg]; rfl

/-- The destination holds the result, computed from the registers after the flag write. -/
theorem flagThenResult_result (x : RegIx) (f : Byte) (g : State → Byte) :
    (flagThenResult s x f g).reg x = g (s.advance.setVf f) := by
  simp [flagThenResult]

/-- VF keeps the flag unless it is the destination. -/
theorem flagThenResult_flag (x : RegIx) (f : Byte) (g : State → Byte) (h : x ≠ 15) :
    (flagThenResult s x f g).reg 15 = f := by
  rw [flagThenResult, State.setReg_reg_ne _ (Ne.symm h), setVf_reg, if_pos rfl]

@[simp] theorem flagThenResult_pc (x : RegIx) (f : Byte) (g : State → Byte) :
    (flagThenResult s x f g).pc = s.pc + 2#16 := by
  simp [flagThenResult]

/-- Nothing but the destination and VF changes, beside pc. -/
theorem flagThenResult_frame (x : RegIx) (f : Byte) (g : State → Byte) :
    Frame { regs := fun r => r = x ∨ r = 15 } s (flagThenResult s x f g) := by
  unfold flagThenResult
  constructor <;> (try simp)
  intro r h1 h2
  rw [State.setReg_reg_ne _ h1, State.setReg_reg_ne _ h2]; simp

/-! ## The cycle -/

theorem State.fetchOutside_iff : s.fetchOutside = true ↔ 0x0FFE < s.pc.toNat := by
  simp [State.fetchOutside, lastFetch]

theorem cycle_stopped (h : s.fault ≠ none) : cycle s = .next s := by
  unfold cycle
  cases hf : s.fault with
  | none => exact absurd hf h
  | some f => rfl

theorem cycle_fetch_outside (h : s.fault = none) (hpc : 0x0FFE < s.pc.toNat) :
    cycle s = .next (s.raiseFault .fetchOob 0#16) := by
  simp [cycle, h, s.fetchOutside_iff.2 hpc]

theorem cycle_running (h : s.fault = none) (hpc : s.pc.toNat ≤ 0x0FFE) :
    cycle s = exec (decodeWord s.fetchWord) s := by
  have : s.fetchOutside = false := by simp [State.fetchOutside, lastFetch]; omega
  simp [cycle, h, this]

/-! ## The step -/

theorem step_cycle (h : s.schedule = []) : step s = cycle s := by simp [step, h]

theorem step_perform {op : HostOp} {rest : List HostOp} (h : s.schedule = op :: rest) :
    step s = perform op { s with schedule := rest } := by simp [step, h]

end Sys2Proof.Machine
end

