-- ==== Sys2Proof/Laws/HostOps.lean ====
section
/-! SUPPORT. The host's operations, one lemma each. -/

namespace Sys2Proof.Machine

variable (s : State)

/-- One tick is a truncated subtraction (60_exceptions.md R215). -/
theorem tickTimer_toNat (t : Byte) : (tickTimer t).toNat = t.toNat - 1 := by
  unfold tickTimer
  split
  · next h => subst h; rfl
  · next h =>
    have : t.toNat ≠ 0 := fun h0 => h (BitVec.eq_of_toNat_eq h0)
    rw [BitVec.toNat_sub]; simp only [BitVec.toNat_ofNat]; omega

theorem State.load_reject {buffer : List Byte} (h : progMax < buffer.length) : s.load buffer = s := by
  simp [State.load, loadAccepts, h]

theorem State.load_accept {buffer : List Byte} (h : buffer.length ≤ progMax) :
    s.load buffer = s.writeBytes progBase buffer := by
  simp [State.load, loadAccepts, h]

/-- A load keeps the canonical form of memory. -/
theorem State.load_wf (buffer : List Byte) (h : Memory.wf s.cfg.font s.mem) :
    Memory.wf (s.load buffer).cfg.font (s.load buffer).mem := by
  unfold State.load
  split
  · exact Memory.wf_writeList _ h
  · exact h

/-- `init` leaves the state R38 describes, whatever it started from. -/
theorem State.init_eq : s.init = { State.initial s.cfg with draws := s.draws, schedule := s.schedule } := rfl

end Sys2Proof.Machine
end

