-- ==== Sys2Proof/Tests/Slice0.lean ====
section
/-! SUPPORT. Tests. Expected results come from the spec: words from the patterns of 30_encoding.md R84, single steps from the
vectors "V-…" of 95_test_vectors.md. A theorem witness_<Name> meets every hypothesis of Obligations.<Name>, clause by clause,
at the ends of each clause's range. -/

namespace Sys2Proof.Tests

open Sys2Proof.Machine

/-! ## WellFormed: each check refuses an ill-formed term -/

theorem test_wf_sys_cls : wellFormed (.sys 0x0E0#12) = false := by decide
theorem test_wf_sys_ret : wellFormed (.sys 0x0EE#12) = false := by decide
theorem test_wf_reserved5 : wellFormed (.reserved5 1 2 0) = false := by decide
theorem test_wf_reserved8_low : wellFormed (.reserved8 1 2 7) = false := by decide
theorem test_wf_reserved8_shl : wellFormed (.reserved8 1 2 0xE) = false := by decide
theorem test_wf_reserved9 : wellFormed (.reserved9 1 2 0) = false := by decide
theorem test_wf_reservedE : wellFormed (.reservedE 1 0xA1#8) = false := by decide
theorem test_wf_reservedF : wellFormed (.reservedF 1 0x65#8) = false := by decide
theorem test_wf_accepts : wellFormed (.sys 0x0E1#12) = true ∧ wellFormed (.reserved8 1 2 0xF) = true := by decide

/-! ## Decoding: a word written out for every constructor -/

theorem test_decode_flow :
    decodeWord 0x00E0#16 = .cls ∧ decodeWord 0x00EE#16 = .ret ∧ decodeWord 0x0123#16 = .sys 0x123#12 ∧
    decodeWord 0x1ABC#16 = .jp 0xABC#12 ∧ decodeWord 0x2300#16 = .call 0x300#12 ∧ decodeWord 0xB5FF#16 = .jpV0 0x5FF#12 := by
  decide

theorem test_decode_skip :
    decodeWord 0x3A42#16 = .seKk 0xA 0x42#8 ∧ decodeWord 0x4A43#16 = .sneKk 0xA 0x43#8 ∧
    decodeWord 0x5120#16 = .seVy 1 2 ∧ decodeWord 0x91F0#16 = .sneVy 1 0xF ∧
    decodeWord 0x5121#16 = .reserved5 1 2 1 ∧ decodeWord 0x912F#16 = .reserved9 1 2 0xF := by decide

theorem test_decode_imm :
    decodeWord 0x6AFF#16 = .ldKk 0xA 0xFF#8 ∧ decodeWord 0x7F01#16 = .addKk 0xF 0x01#8 ∧
    decodeWord 0xAFFE#16 = .ldI 0xFFE#12 ∧ decodeWord 0xC30F#16 = .rnd 3 0x0F#8 := by decide

theorem test_decode_alu :
    decodeWord 0x8120#16 = .ldVy 1 2 ∧ decodeWord 0x8341#16 = .orVy 3 4 ∧ decodeWord 0x8562#16 = .andVy 5 6 ∧
    decodeWord 0x8783#16 = .xorVy 7 8 ∧ decodeWord 0x89A4#16 = .addVy 9 0xA := by decide

theorem test_decode_alu_shifts :
    decodeWord 0x8BC5#16 = .sub 0xB 0xC ∧ decodeWord 0x8DE6#16 = .shr 0xD 0xE ∧ decodeWord 0x8F07#16 = .subn 0xF 0 ∧
    decodeWord 0x812E#16 = .shl 1 2 ∧ decodeWord 0x8128#16 = .reserved8 1 2 8 ∧
    decodeWord 0x812F#16 = .reserved8 1 2 0xF := by decide

theorem test_decode_display_keys :
    decodeWord 0xD12F#16 = .drw 1 2 0xF ∧ decodeWord 0xE29E#16 = .skp 2 ∧ decodeWord 0xE3A1#16 = .sknp 3 ∧
    decodeWord 0xE200#16 = .reservedE 2 0x00#8 := by decide

theorem test_decode_misc :
    decodeWord 0xF107#16 = .ldVxDt 1 ∧ decodeWord 0xF20A#16 = .ldVxK 2 ∧ decodeWord 0xF315#16 = .ldDtVx 3 ∧
    decodeWord 0xF418#16 = .ldStVx 4 ∧ decodeWord 0xF51E#16 = .addI 5 := by decide

theorem test_decode_misc_memory :
    decodeWord 0xF629#16 = .ldF 6 ∧ decodeWord 0xF733#16 = .ldB 7 ∧ decodeWord 0xF855#16 = .stRegs 8 ∧
    decodeWord 0xF965#16 = .ldRegs 9 ∧ decodeWord 0xF375#16 = .reservedF 3 0x75#8 := by decide

/-- The first byte is the high half (R56, R80). -/
theorem test_decode_bytes : decodeBytes [0x6A#8, 0x42#8, 0xFF#8] = .ok (.ldKk 0xA 0x42#8, [0xFF#8]) := by decide

theorem test_encode_bytes : encodeBytes (.drw 1 2 3) = [0xD1#8, 0x23#8] := by decide

/-! ## One step on a small state -/

/-- The reset state with a word at 0x200 and some registers set. -/
def ready (w : Nat) (regs : List (RegIx × Byte)) : State :=
  regs.foldl (fun s p => s.setReg p.1 p.2) (State.reset.withFetchWord 16 w)

/-- What one step leaves, seen through `f`. -/
def after {α : Type} (s : State) (f : State → α) : Option α :=
  match step s with
  | .next t => some (f t)
  | .fault _ => none
  | .refused _ => none

/-- The latch of V-… rows: code, address, word. -/
def latch (t : State) : Option (FaultCode × Word × Word) := t.fault.map fun f => (f.code, f.addr, f.opcode)

/-- V-FL-1 -/
theorem test_sys : after (ready 0x0123 []) State.pc = some 0x0202#16 := by decide
/-- V-FL-2 -/
theorem test_ret :
    after { ready 0x00EE [] with sp := 2#8, stack := (ready 0x00EE []).stack.set 2 0x0345#16 }
      (fun t => (t.pc, t.sp)) = some (0x0345#16, 1#8) := by decide
/-- V-FL-4 -/
theorem test_ret_underflow :
    after (ready 0x00EE []) (fun t => (latch t, t.pc)) = some (some (.stackUnderflow, 0x200#16, 0x00EE#16), 0x200#16) := by
  decide
/-- V-FL-5 -/
theorem test_jp : after (ready 0x1ABC []) State.pc = some 0x0ABC#16 := by decide
/-- V-FL-7 -/
theorem test_call_last :
    after { ready 0x2300 [] with sp := 14#8 } (fun t => (t.sp, t.slot 15, t.pc)) =
      some (15#8, 0x0202#16, 0x0300#16) := by decide
/-- V-FL-8 -/
theorem test_call_overflow :
    after { ready 0x2300 [] with sp := 15#8 } (fun t => (latch t, t.pc, t.sp)) =
      some (some (.stackOverflow, 0x200#16, 0x2300#16), 0x0200#16, 15#8) := by decide
/-- V-FL-10 -/
theorem test_jpV0 : after (ready 0xBFFF [(0, 0xFF#8)]) State.pc = some 0x10FE#16 := by decide
/-- V-SK-1 -/
theorem test_seKk :
    after (ready 0x3A42 [(0xA, 0x42#8)]) State.pc = some 0x0204#16 ∧
    after (ready 0x3A42 [(0xA, 0x43#8)]) State.pc = some 0x0202#16 := by decide
/-- V-SK-2 -/
theorem test_sneKk :
    after (ready 0x4A42 [(0xA, 0x42#8)]) State.pc = some 0x0202#16 ∧
    after (ready 0x4A42 [(0xA, 0x43#8)]) State.pc = some 0x0204#16 := by decide
/-- V-SK-3 -/
theorem test_seVy :
    after (ready 0x5120 [(1, 7#8), (2, 7#8)]) State.pc = some 0x0204#16 ∧
    after (ready 0x5120 [(1, 7#8), (2, 8#8)]) State.pc = some 0x0202#16 := by decide
/-- V-SK-4 -/
theorem test_sneVy :
    after (ready 0x9120 [(1, 7#8), (2, 8#8)]) State.pc = some 0x0204#16 ∧
    after (ready 0x9120 [(1, 7#8), (2, 7#8)]) State.pc = some 0x0202#16 := by decide

/-- The reset state under `low_nibble_5_9 = ignore`. -/
def ignoring (w : Nat) (regs : List (RegIx × Byte)) : State :=
  { ready w regs with cfg := { defaultConfig with lowNibble59 := .ignore } }

/-- V-SK-5 -/
theorem test_reserved5 :
    after (ready 0x5121 [(1, 7#8), (2, 7#8)]) State.pc = some 0x0202#16 ∧
    after (ignoring 0x5121 [(1, 7#8), (2, 7#8)]) State.pc = some 0x0204#16 := by decide
/-- V-SK-6 -/
theorem test_reserved9 :
    after (ready 0x9121 [(1, 7#8), (2, 8#8)]) State.pc = some 0x0202#16 ∧
    after (ignoring 0x9121 [(1, 7#8), (2, 8#8)]) State.pc = some 0x0204#16 := by decide
/-- V-IMM-1 -/
theorem test_ldKk : after (ready 0x6AFF []) (fun t => (t.reg 0xA, t.pc)) = some (0xFF#8, 0x0202#16) := by decide
/-- V-IMM-2 -/
theorem test_addKk :
    after (ready 0x7A0A [(0xA, 0xFA#8), (0xF, 7#8)]) (fun t => (t.reg 0xA, t.reg 0xF)) = some (4#8, 7#8) := by decide
/-- V-IMM-5 -/
theorem test_ldI : after (ready 0xAFFF []) State.i = some 0x0FFF#16 := by decide
/-- V-IMM-6: the mask 00 gives 00 whatever the draw, and one draw is taken. -/
theorem test_rnd : after (ready 0xC300 [(3, 9#8)]) (fun t => (t.reg 3, t.draws)) = some (0#8, 1) := by
  have h : after (ready 0xC300 [(3, 9#8)]) (fun t => (t.reg 3, t.draws)) = some (Config.randomByte 0 &&& 0#8, 1) := rfl
  simp [h]
/-- V-ALU-0 -/
theorem test_ldVy :
    after (ready 0x8120 [(1, 1#8), (2, 0xAB#8), (0xF, 9#8)]) (fun t => (t.reg 1, t.reg 0xF)) = some (0xAB#8, 9#8) := by decide
/-- V-ALU-1 -/
theorem test_orVy :
    after (ready 0x8121 [(1, 0x0F#8), (2, 0xF0#8), (0xF, 9#8)]) (fun t => (t.reg 1, t.reg 0xF)) = some (0xFF#8, 9#8) := by
  decide
/-- V-ALU-2 -/
theorem test_andVy :
    after (ready 0x8122 [(1, 0x3C#8), (2, 0x0F#8), (0xF, 9#8)]) (fun t => (t.reg 1, t.reg 0xF)) = some (0x0C#8, 9#8) := by
  decide
/-- V-ALU-3 -/
theorem test_xorVy :
    after (ready 0x8123 [(1, 0xFF#8), (2, 0x0F#8), (0xF, 9#8)]) (fun t => (t.reg 1, t.reg 0xF)) = some (0xF0#8, 9#8) := by
  decide
/-- V-ALU-4c, V-ALU-4d -/
theorem test_addVy :
    after (ready 0x8124 [(1, 0xFF#8), (2, 0#8)]) (fun t => (t.reg 1, t.reg 0xF)) = some (0xFF#8, 0#8) ∧
    after (ready 0x8124 [(1, 0xFF#8), (2, 1#8)]) (fun t => (t.reg 1, t.reg 0xF)) = some (0#8, 1#8) := by decide
/-- V-ALU-F1: the sum overwrites the carry. -/
theorem test_addVy_vf : after (ready 0x8F14 [(0xF, 0xF0#8), (1, 0x20#8)]) (fun t => t.reg 0xF) = some 0x10#8 := by decide
/-- V-ALU-5c -/
theorem test_sub_equal :
    after (ready 0x8125 [(1, 0x33#8), (2, 0x33#8), (0xF, 1#8)]) (fun t => (t.reg 1, t.reg 0xF)) = some (0#8, 0#8) := by decide
/-- V-ALU-F7: the new flag is subtracted. -/
theorem test_sub_vf :
    after (ready 0x81F5 [(1, 0x10#8), (0xF, 5#8)]) (fun t => (t.reg 1, t.reg 0xF)) = some (0x0F#8, 1#8) := by decide
/-- V-ALU-6a -/
theorem test_shr :
    after (ready 0x8126 [(1, 5#8), (2, 0xAA#8)]) (fun t => (t.reg 1, t.reg 2, t.reg 0xF)) = some (2#8, 0xAA#8, 1#8) := by
  decide
/-- V-ALU-F10 -/
theorem test_shr_vf : after (ready 0x8F16 [(0xF, 3#8)]) (fun t => t.reg 0xF) = some 0#8 := by decide
/-- V-ALU-7b -/
theorem test_subn :
    after (ready 0x8127 [(1, 0x10#8), (2, 1#8)]) (fun t => (t.reg 1, t.reg 0xF)) = some (0xF1#8, 0#8) := by decide
/-- V-ALU-F13 -/
theorem test_subn_vf :
    after (ready 0x81F7 [(1, 5#8), (0xF, 0x10#8)]) (fun t => (t.reg 1, t.reg 0xF)) = some (0xFC#8, 1#8) := by decide
/-- V-ALU-Ea -/
theorem test_shl :
    after (ready 0x812E [(1, 0x81#8), (2, 0xAA#8)]) (fun t => (t.reg 1, t.reg 2, t.reg 0xF)) = some (2#8, 0xAA#8, 1#8) := by
  decide
/-- V-ALU-F16 -/
theorem test_shl_vf : after (ready 0x8F1E [(0xF, 0x81#8)]) (fun t => t.reg 0xF) = some 2#8 := by decide
/-- V-ALU-R1 -/
theorem test_reserved8 :
    after (ready 0x8128 [(1, 3#8), (2, 4#8), (0xF, 9#8)]) (fun t => (t.reg 1, t.reg 0xF, t.pc)) =
      some (3#8, 9#8, 0x0202#16) := by decide

/-- The row of V-CLS-1 and V-DRW-…: a framebuffer with the cells listed on. -/
def lit (s : State) (cells : List (Nat × Nat)) : State := { s with fb := (drawPixels s.fb false cells).1 }

/-- The reset state with a word at 0x200, sprite bytes from 0x300 up, I there and some registers set. -/
def sprite (w : Nat) (bytes : List Byte) (regs : List (RegIx × Byte)) : State :=
  ((ready w regs).setI 0x0300#16).writeBytes 0x300 bytes

/-- The cells of a row that are on. -/
def row (y : Nat) (t : State) : List Nat := (List.range 64).filter fun x => t.pixel x y

/-- V-CLS-1 -/
theorem test_cls :
    after (lit (ready 0x00E0 [(0xF, 9#8)]) [(0, 0), (36, 1), (63, 31)])
      (fun t => (decide (t.fb = clearScreen), t.reg 0xF)) = some (true, 9#8) := by decide
/-- V-DRW-1 -/
theorem test_drw_clip :
    after (sprite 0xD011 [0xFF#8] [(0, 0x3C#8), (0xF, 7#8)]) (fun t => (row 0 t, t.reg 0xF)) =
      some ([60, 61, 62, 63], 0#8) := by decide
/-- V-DRW-7 -/
theorem test_drw_collision :
    after (lit (sprite 0xD012 [0xC0#8, 0xC0#8] []) [(1, 0)]) (fun t => (row 0 t, row 1 t, t.reg 0xF)) =
      some ([0], [0, 1], 1#8) := by decide
/-- V-KP-1 -/
theorem test_skp :
    after ((ready 0xE29E [(2, 5#8)]).setKey 5 true) State.pc = some 0x0204#16 ∧
    after (ready 0xE29E [(2, 5#8)]) State.pc = some 0x0202#16 := by decide
/-- V-KP-4 -/
theorem test_skp_outside :
    after (ready 0xE29E [(2, 0x10#8)]) (fun t => (latch t, t.pc)) =
      some (some (.keyOob, 0x200#16, 0xE29E#16), 0x0200#16) := by decide
/-- V-KP-2 -/
theorem test_sknp :
    after ((ready 0xE2A1 [(2, 5#8)]).setKey 5 true) State.pc = some 0x0202#16 ∧
    after (ready 0xE2A1 [(2, 5#8)]) State.pc = some 0x0204#16 := by decide
/-- V-KP-5 -/
theorem test_reservedE : after (ready 0xE200 [(2, 0xFF#8)]) (fun t => (t.fault, t.pc)) = some (none, 0x0202#16) := by decide
/-- V-KP-6 -/
theorem test_ldVxK :
    after (ready 0xF30A []) State.pc = some 0x0200#16 ∧
    after (((ready 0xF30A []).setKey 7 true).setKey 3 true) (fun t => (t.reg 3, t.pc)) = some (3#8, 0x0202#16) := by decide
/-- V-TM-1 -/
theorem test_ldVxDt : after { ready 0xF307 [] with dt := 0x2A#8, st := 0x11#8 } (fun t => t.reg 3) = some 0x2A#8 := by decide
/-- V-TM-2 -/
theorem test_ldDtVx :
    after { ready 0xF315 [(3, 0xFF#8)] with st := 0x11#8 } (fun t => (t.dt, t.st)) = some (0xFF#8, 0x11#8) := by decide
/-- V-TM-3 -/
theorem test_ldStVx :
    after { ready 0xF318 [(3, 2#8)] with dt := 0x11#8 } (fun t => (t.dt, t.st)) = some (0x11#8, 2#8) := by decide
/-- V-IX-1 -/
theorem test_addI :
    after ((ready 0xF11E [(1, 1#8), (0xF, 7#8)]).setI 0x0FFF#16) (fun t => (t.i, t.reg 0xF)) = some (0x1000#16, 7#8) := by
  decide
/-- V-IX-2 -/
theorem test_addI_wraps : after ((ready 0xF11E [(1, 2#8)]).setI 0xFFFF#16) State.i = some 0x0001#16 := by decide
/-- V-IX-4 -/
theorem test_ldF :
    after (ready 0xF129 [(1, 0x1A#8)]) State.i = some 0x0082#16 ∧
    after (ready 0xF129 [(1, 0xFF#8)]) State.i = some 0x009B#16 := by decide
/-- V-IX-5 -/
theorem test_ldB :
    after (sprite 0xF533 [] [(5, 0xFE#8)]) (fun t => [t.readByte 0x300, t.readByte 0x301, t.readByte 0x302]) =
      some [2#8, 5#8, 4#8] := by decide
/-- V-IX-8 -/
theorem test_ldB_outside :
    after ((ready 0xF533 [(5, 0xFF#8)]).setI 0x0FFE#16) (fun t => (latch t, t.pc, t.readByte 0xFFE)) =
      some (some (.memOob, 0x200#16, 0xF533#16), 0x0200#16, 0#8) := by decide
/-- V-IX-9 -/
theorem test_stRegs :
    after ((ready 0xF255 [(0, 0xAA#8), (1, 0xBB#8), (2, 0xCC#8), (3, 0xDD#8)]).setI 0x0400#16)
      (fun t => ([0x400, 0x401, 0x402, 0x403].map t.readByte, t.i)) =
      some ([0xAA#8, 0xBB#8, 0xCC#8, 0#8], 0x0400#16) := by decide
/-- V-IX-13 -/
theorem test_ldRegs :
    after (sprite 0xF265 [1#8, 2#8, 3#8, 4#8] [(3, 0x77#8)]) (fun t => ([0, 1, 2, 3].map t.reg, t.i)) =
      some ([1#8, 2#8, 3#8, 0x77#8], 0x0300#16) := by decide
/-- V-IX-18 -/
theorem test_reservedF :
    after { ready 0xF375 [(3, 1#8)] with dt := 3#8, i := 5#16 } (fun t => (t.i, t.dt, t.reg 3, t.pc)) =
      some (5#16, 3#8, 1#8, 0x0202#16) := by decide

/-! ## The cycle and the host's operations -/

/-- V-CY-2, its second cycle: pc 0x1000 cannot be fetched. -/
theorem test_fetch_outside :
    after { State.reset with pc := 0x1000#16 } (fun t => (latch t, t.pc)) =
      some (some (.fetchOob, 0x1000#16, 0#16), 0x1000#16) := by decide
/-- V-CY-4: an odd pc is legal. -/
theorem test_fetch_odd :
    after (({ State.reset with pc := 0x0201#16 } : State).writeBytes 0x201 [0x12#8, 0x34#8]) State.pc = some 0x0234#16 := by
  decide
/-- V-TK-1, its first tick, and V-TK-2. -/
theorem test_tick :
    after { State.reset with dt := 1#8, st := 3#8, schedule := [.tickTimers] } (fun t => (t.dt, t.st, t.pc)) =
      some (0#8, 2#8, 0x200#16) ∧
    after { State.reset with dt := 0xFF#8, schedule := [.tickTimers] } (fun t => (t.dt, t.st)) = some (0xFE#8, 0#8) := by
  decide
/-- V-SKY-1: a level, not a toggle. -/
theorem test_setKey :
    after (({ State.reset with schedule := [.setKey 4 true] } : State).setKey 4 true) (fun t => t.keyDown 4) = some true := by
  decide
/-- V-LD-1 and V-LD-2 at their lengths, and a short buffer in memory. -/
theorem test_load :
    loadAccepts (List.replicate 3584 0xAB#8) = true ∧ loadAccepts (List.replicate 3585 0xAB#8) = false ∧
    after { State.reset with schedule := [.load [0xAB#8, 0xCD#8]] } (fun t => [0x1FF, 0x200, 0x201].map t.readByte) =
      some [0#8, 0xAB#8, 0xCD#8] := by
  refine ⟨?_, ?_, by decide⟩ <;> (simp only [loadAccepts, List.length_replicate]; decide)
/-- V-IN-1, from a stopped machine. -/
theorem test_init :
    after { ready 0x0123 [(1, 9#8)] with
        pc := 0x300#16, sp := 3#8, fault := some ⟨.memOob, 0x300#16, 0xF533#16⟩, schedule := [.init] }
      (fun t => decide (t = State.reset)) = some true := by decide

/-! ## Witnesses: states and operands that meet the hypotheses of each statement, at the ends of each clause's range -/

theorem witness_DecodeOfEncodeIsIdentity : wellFormed (.sys 0x0E1#12) = true ∧ wellFormed (.reservedF 0 0x66#8) = true := by
  decide

/-- The word 5120 matches its own row and the catch-all row 35 of family 5. -/
theorem witness_DecodeSelectsLargestMask :
    ∃ row k other, opcodeTable[tableRow (decodeWord 0x5120#16)]? = some row ∧ opcodeTable[k]? = some other ∧
      RowMatches (0x5120#16 : Word).toNat other ∧ k ≠ tableRow (decodeWord 0x5120#16) :=
  ⟨(0x5000, 0xF00F), 35, (0x5000, 0xF000), by decide, by decide, by unfold RowMatches; decide, by decide⟩

theorem witness_SysOnlyAdvances : (0x0E1#12 : Addr12) ≠ 0x0E0#12 ∧ (0x0E1#12 : Addr12) ≠ 0x0EE#12 := by decide

/-- The reset state with another stack pointer. -/
def withSp (b : Byte) : State := { State.reset with sp := b }

theorem witness_ReturnPopsTheStack :
    (withSp 0#8).sp.toNat = 0 ∧
    ((1 : Fin 16).val = (withSp 1#8).sp.toNat ∧ 1 ≤ (1 : Fin 16).val) ∧
    ((15 : Fin 16).val = (withSp 15#8).sp.toNat ∧ 1 ≤ (15 : Fin 16).val) ∧
    16 ≤ (withSp 16#8).sp.toNat := by decide

theorem witness_CallPushesTheReturnAddress :
    15 ≤ (withSp 15#8).sp.toNat ∧ (1 : Fin 16).val = (withSp 0#8).sp.toNat + 1 ∧
    (15 : Fin 16).val = (withSp 14#8).sp.toNat + 1 := by decide

theorem witness_ReturnUndoesCall : (withSp 0#8).sp.toNat < 15 ∧ (withSp 14#8).sp.toNat < 15 := by decide

theorem witness_ReservedSkipWordsFollowParameter : (1 : Fin 16) ≠ 0 ∧ (15 : Fin 16) ≠ 0 := by decide

theorem witness_AddImmediateWrapsWithoutFlag : (14 : RegIx) ≠ 15 := by decide

theorem witness_AddWritesCarry :
    ((14 : RegIx) ≠ 15 ∧ State.reset.cfg.addVfMode = .carry) ∧
    ((0 : RegIx) ≠ 15 ∧ (State.initial { defaultConfig with addVfMode := .alwaysOne }).cfg.addVfMode = .alwaysOne) := by
  decide

/-- Registers 1 and 2 hold 2 and 1, VF holds 1. -/
def pair : State := ((State.reset.setReg 1 2#8).setReg 2 1#8).setReg 15 1#8

theorem witness_SubtractWritesStrictFlag :
    (1 : Nat) = (if (pair.reg 1).toNat > (pair.reg 2).toNat then 1 else 0) ∧
    (0 : Nat) = (if (pair.reg 2).toNat > (pair.reg 2).toNat then 1 else 0) ∧
    ((1 : RegIx) ≠ 15 ∧ (2 : RegIx) ≠ 15) ∧ ((15 : RegIx) = 15 ∧ (2 : RegIx) ≠ 15) ∧ ((1 : RegIx) ≠ 15 ∧ (15 : RegIx) = 15) := by
  decide

theorem witness_ReverseSubtractWritesStrictFlag :
    (1 : Nat) = (if (pair.reg 1).toNat > (pair.reg 2).toNat then 1 else 0) ∧
    (0 : Nat) = (if (pair.reg 15).toNat > (pair.reg 15).toNat then 1 else 0) ∧
    ((2 : RegIx) ≠ 15 ∧ (1 : RegIx) ≠ 15) ∧ ((15 : RegIx) = 15 ∧ (1 : RegIx) ≠ 15) ∧ ((2 : RegIx) ≠ 15 ∧ (15 : RegIx) = 15) := by
  decide

theorem witness_ShiftsWriteTheBitShiftedOut : (14 : RegIx) ≠ 15 ∧ (15 : RegIx) = 15 := by decide

theorem witness_ReservedWordsAreNoOperations :
    (8 : Fin 16).val ∈ [8, 9, 0xA, 0xB, 0xC, 0xD, 0xF] ∧ (15 : Fin 16).val ∈ [8, 9, 0xA, 0xB, 0xC, 0xD, 0xF] ∧
    (0x9D#8 : Byte).toNat ∉ [0x9E, 0xA1] ∧
    (0x66#8 : Byte).toNat ∉ [0x07, 0x0A, 0x15, 0x18, 0x1E, 0x29, 0x33, 0x55, 0x65] ∧
    Instr.reservedE 1 0#8 ∈ [Instr.reserved8 1 2 8, .reservedE 1 0#8, .reservedF 1 0#8] := by decide

/-- The reset state with another I. -/
def withI (w : Word) : State := State.reset.setI w

theorem witness_DrawTogglesAndReportsCollision_range :
    (1 ≤ (2 : Fin 16).val ∧ 0xFFF < (withI 0xFFF#16).i.toNat + (2 : Fin 16).val - 1) ∧
    ((0 : Fin 16).val = 0 ∨ (withI 0xFFFF#16).i.toNat + (0 : Fin 16).val - 1 ≤ 0xFFF) ∧
    ((1 : Fin 16).val = 0 ∨ (withI 0xFFF#16).i.toNat + (1 : Fin 16).val - 1 ≤ 0xFFF) := by decide

/-- The first byte of the glyph "0" is F0: its pixel (0, 0) is on, and the cell may be off or on. -/
theorem witness_DrawTogglesAndReportsCollision_on :
    SpriteOn (withI 0x050#16) 0 1 1 0 0 ∧ (withI 0x050#16).pixel 0 0 = false ∧
    SpriteOn (lit (withI 0x050#16) [(0, 0)]) 0 1 1 0 0 ∧ (lit (withI 0x050#16) [(0, 0)]).pixel 0 0 = true := by
  refine ⟨?_, by decide, ?_, by decide⟩ <;> (unfold SpriteOn; decide)

/-- On a dark screen no on pixel of a sprite meets a cell that is on. -/
theorem witness_DrawTogglesAndReportsCollision_free :
    ∀ tx ty, tx < 64 → ty < 32 → SpriteOn (withI 0x050#16) 0 1 1 tx ty → (withI 0x050#16).pixel tx ty = false := by
  intro tx ty _ _ _
  simp [State.pixel, withI, State.reset, State.initial, fbPixel]

theorem witness_DrawTwiceRestoresTheScreen :
    (14 : Fin 16) ≠ 15 ∧ (0 : Fin 16) ≠ 15 ∧
    ((15 : Fin 16).val = 0 ∨ (withI 0xFF1#16).i.toNat + (15 : Fin 16).val - 1 ≤ 0xFFF) := by decide

theorem witness_SkipOnKey :
    15 < ((State.reset.setReg 2 16#8).reg 2).toNat ∧ 15 < ((State.reset.setReg 2 255#8).reg 2).toNat ∧
    (15 : KeyIx).val = ((State.reset.setReg 2 15#8).reg 2).toNat ∧ (0 : KeyIx).val = (State.reset.reg 2).toNat := by decide

theorem witness_WaitForKey :
    (((State.reset.setKey 3 true).keyDown 3 = true ∧ ∀ j : KeyIx, j < 3 → (State.reset.setKey 3 true).keyDown j = false) ∧
      ((State.reset.setKey 15 true).keyDown 15 = true ∧ ∀ j : KeyIx, j < 15 → (State.reset.setKey 15 true).keyDown j = false)) ∧
    ∀ k, State.reset.keyDown k = false := by decide

theorem witness_DecimalDigitsStored :
    0xFFF < (withI 0xFFE#16).i.toNat + 2 ∧ (withI 0xFFD#16).i.toNat + 2 ≤ 0xFFF := by decide

theorem witness_RegistersStored :
    0xFFF < (withI 0xFF1#16).i.toNat + (15 : RegIx).val ∧ (withI 0xFF0#16).i.toNat + (15 : RegIx).val ≤ 0xFFF ∧
    0xFFF < (withI 0x1000#16).i.toNat + (0 : RegIx).val ∧ (15 : RegIx) ≤ 15 := by decide

theorem witness_RegistersLoaded :
    0xFFF < (withI 0xFFF#16).i.toNat + (1 : RegIx).val ∧ (withI 0xFFF#16).i.toNat + (0 : RegIx).val ≤ 0xFFF ∧
    (0 : RegIx) ≤ 1 := by decide

/-- The reset state with another pc. -/
def withPc (w : Word) : State := State.reset.setPc w

theorem witness_FetchIsBigEndian : (withPc 0x0FFE#16).fault = none ∧ (withPc 0x0FFE#16).pc.toNat ≤ 0x0FFE := by decide

theorem witness_StepRunsDecodedInstruction :
    (ready 0x6A42 []).fault = none ∧ (ready 0x6A42 []).pc.toNat ≤ 0x0FFE ∧ wellFormed (.ldKk 0xA 0x42#8) = true ∧
    decodeBytes [(ready 0x6A42 []).readByte (ready 0x6A42 []).pc.toNat,
      (ready 0x6A42 []).readByte ((ready 0x6A42 []).pc.toNat + 1)] = .ok (.ldKk 0xA 0x42#8, []) ∧
    (ready 0x6A42 []).schedule = [] := by decide

/-- The same with `cycle` listed. -/
theorem witness_StepRunsDecodedInstruction_listed :
    ∃ s : State, s.fault = none ∧ s.pc.toNat ≤ 0x0FFE ∧ wellFormed (.ldKk 0xA 0x42#8) = true ∧
      decodeBytes [s.readByte s.pc.toNat, s.readByte (s.pc.toNat + 1)] = .ok (.ldKk 0xA 0x42#8, []) ∧
      s.schedule = .cycle :: [.tickTimers] :=
  ⟨{ ready 0x6A42 [] with schedule := [.cycle, .tickTimers] }, by decide, by decide, by decide, by decide, by decide⟩

theorem witness_FetchOutsideMemoryFaults : (withPc 0x0FFF#16).fault = none ∧ 0x0FFE < (withPc 0x0FFF#16).pc.toNat := by decide

theorem witness_StoreIsFetchedNext :
    (withI 0x202#16).fault = none ∧ 1 ≤ (1 : RegIx).val ∧ (withI 0x202#16).i = (withI 0x202#16).pc + 2#16 ∧
    (withI 0x202#16).pc.toNat + 2 + (15 : RegIx).val ≤ 0xFFF := by decide

theorem witness_FaultIsPrecise :
    ∃ t, exec .ret State.reset = .next t ∧ t.fault ≠ none ∧ State.reset.fault = none :=
  ⟨_, rfl, by decide, by decide⟩

/-- The word 00EE at 0x200 faults in its cycle. -/
theorem witness_FaultIsPrecise_cycle :
    ∃ t f, (ready 0x00EE []).fault = none ∧ (ready 0x00EE []).pc.toNat ≤ 0x0FFE ∧ cycle (ready 0x00EE []) = .next t ∧
      t.fault = some f :=
  ⟨(ready 0x00EE []).raiseFault .stackUnderflow 0x00EE#16, ⟨.stackUnderflow, 0x200#16, 0x00EE#16⟩, by decide, by decide,
    rfl, by decide⟩

theorem witness_FaultsFollowTheTable : (withSp 15#8).sp.toNat ≤ 15 ∧ (withSp 15#8).fault = none := by decide

/-- A stopped machine whose host issues `op`. -/
def stopped (ops : List HostOp) : State :=
  { State.reset with fault := some ⟨.memOob, 0x200#16, 0xF533#16⟩, schedule := ops }

theorem witness_LatchHoldsUntilInit :
    ∃ t, (stopped []).fault ≠ none ∧ (stopped [.tickTimers]).fault = some ⟨.memOob, 0x200#16, 0xF533#16⟩ ∧
      step (stopped [.tickTimers]) = .next t ∧ (stopped [.tickTimers]).schedule.head? ≠ some .init :=
  ⟨stopped [], by decide, by decide, rfl, by decide⟩

theorem witness_TickCountsDownToZero :
    0 < ({ State.reset with dt := 1#8, st := 255#8 } : State).dt.toNat ∧
    0 < ({ State.reset with dt := 1#8, st := 255#8 } : State).st.toNat ∧
    State.reset.dt.toNat = 0 ∧ State.reset.st.toNat = 0 := by decide

theorem witness_SetKeySetsOneKey : (3 : KeyIx) ≠ 4 := by decide

theorem witness_LoadCopiesOrRefuses :
    3584 < (List.replicate 3585 (0#8 : Byte)).length ∧ (List.replicate 3584 (0#8 : Byte)).length ≤ 3584 ∧
    [0xAB#8, 0xCD#8][1]? = some 0xCD#8 ∧ (0x1FF < 0x200 ∨ 0x200 + [0xAB#8, 0xCD#8].length ≤ 0x1FF) ∧
    (0x202 < 0x200 ∨ 0x200 + [0xAB#8, 0xCD#8].length ≤ 0x202) := by
  refine ⟨?_, ?_, by decide, by decide, by decide⟩
  · rw [List.length_replicate]; decide
  · rw [List.length_replicate]

theorem witness_InitIsTheSameFromAnyState : (0x04F < 0x050 ∨ 0x09F < 0x04F) ∧ (0x0A0 < 0x050 ∨ 0x09F < 0x0A0) := by decide

theorem witness_OtherOperationsIgnoreTheLatch : HostOp.tickTimers ≠ .cycle ∧ HostOp.tickTimers ≠ .init := by decide

theorem witness_ReadsChangeNothing : 63 < 64 ∧ 31 < 32 := by decide

theorem witness_StepTakesTheOldestOperation :
    ∃ t, State.reset.schedule = [] ∧ (stopped [.tickTimers, .cycle]).schedule = .tickTimers :: [.cycle] ∧
      step (stopped [.tickTimers, .cycle]) = .next t :=
  ⟨stopped [.cycle], by decide, by decide, rfl⟩

theorem witness_ReadGivesTheLastWrite :
    4095 < 4096 ∧ Memory.wf State.reset.cfg.font State.reset.mem ∧ (4094 : Nat) ≠ 4095 := by decide

theorem witness_MemoryAndScreenWrittenAsListed :
    ∃ t, exec (.jp 0x200#12) State.reset = .next t ∧
      ((∀ x, Instr.jp 0x200#12 ≠ .ldB x) ∧ (∀ x, Instr.jp 0x200#12 ≠ .stRegs x)) ∧
      (Instr.jp 0x200#12 ≠ .cls ∧ ∀ x y n, Instr.jp 0x200#12 ≠ .drw x y n) :=
  ⟨_, rfl, by simp, by simp⟩

theorem witness_RegistersWrittenAsListed :
    ∃ t, exec (.ldRegs 3) State.reset = .next t ∧ ¬ writesReg (.ldRegs 3) 4 :=
  ⟨_, rfl, by unfold writesReg; decide⟩

theorem witness_SpecialRegistersWrittenAsListed :
    ∃ t, exec (.jp 0x200#12) State.reset = .next t ∧
      ((∀ nnn, Instr.jp 0x200#12 ≠ .ldI nnn) ∧ (∀ x, Instr.jp 0x200#12 ≠ .addI x) ∧ (∀ x, Instr.jp 0x200#12 ≠ .ldF x)) ∧
      ((∀ nnn, Instr.jp 0x200#12 ≠ .call nnn) ∧ Instr.jp 0x200#12 ≠ .ret) ∧
      (∀ x, Instr.jp 0x200#12 ≠ .ldDtVx x) ∧ (∀ x, Instr.jp 0x200#12 ≠ .ldStVx x) :=
  ⟨_, rfl, by simp, by simp, by simp, by simp⟩

theorem witness_PcFollowsTheTable :
    (∃ t, State.reset.fault = none ∧ exec (.jp 0x200#12) State.reset = .next t ∧ t.fault = none) ∧
    ∃ t, State.reset.fault = none ∧ exec .ret State.reset = .next t ∧ t.fault ≠ none :=
  ⟨⟨_, by decide, rfl, by decide⟩, ⟨_, by decide, rfl, by decide⟩⟩

/-- A state of a run that is not the reset state: fifteen calls deep, a stored byte, pc at its bound. -/
def deep : State :=
  { State.reset with pc := 0x10FE#16, sp := 15#8, stack := (Vector.replicate 16 0x1000#16).set 0 0#16, mem := [(0x300, 1#8)] }

theorem witness_StepKeepsTheInvariant : ∃ t, deep.Inv ∧ step deep = .next t :=
  ⟨deep.raiseFault .fetchOob 0#16,
    ⟨by decide, by decide, by decide, by decide, by decide, by intro f h; simp [deep, State.reset, State.initial] at h⟩,
    rfl⟩

theorem witness_StepNeverGetsStuck : deep.Inv :=
  ⟨by decide, by decide, by decide, by decide, by decide, by intro f h; simp [deep, State.reset, State.initial] at h⟩

end Sys2Proof.Tests
end

/-! SUPPORT. What any instruction, any cycle and any step can do: the one case split over the instructions from which the
rules of the whole machine (10_state.md) follow. -/

namespace Sys2Proof.Machine

/-! ## Building a frame one update at a time -/

section Frames
variable {w : MayWrite} {s t : State}

theorem Frame.refl (w : MayWrite) (s : State) : Frame w s s := by constructor <;> simp

theorem Frame.setPc (h : Frame w s t) (p : Word) : Frame w s (t.setPc p) := { h with }

theorem Frame.advance (h : Frame w s t) : Frame w s t.advance := h.setPc _

theorem frame_advance (w : MayWrite) (s : State) : Frame w s s.advance := (Frame.refl w s).advance

theorem Frame.skipIf (h : Frame w s t) (c : Bool) : Frame w s (t.skipIf c) := by
  rw [State.skipIf_eq]; exact h.setPc _

theorem Frame.setV (h : Frame w s t) {v : Vector Byte 16}
    (hv : ∀ r : RegIx, ¬ w.regs r → v[r.val] = t.reg r) : Frame w s { t with v := v } :=
  { h with regs := fun r hr => (hv r hr).trans (h.regs r hr) }

theorem Frame.setReg (h : Frame w s t) {x : RegIx} (hx : w.regs x) (b : Byte) : Frame w s (t.setReg x b) :=
  h.setV fun r hr => by
    have hne : r ≠ x := by rintro rfl; exact hr hx
    exact State.setReg_reg_ne _ hne b

theorem Frame.loadRegs (h : Frame w s t) {x : RegIx} (hx : ∀ r ≤ x, w.regs r) (a : Nat) :
    Frame w s (t.loadRegs a x) :=
  h.setV fun r hr => by
    have hgt : ¬ r ≤ x := fun hle => hr (hx r hle)
    exact (State.loadRegs_reg _ a x r).trans (if_neg hgt)

theorem Frame.writeBytes (h : Frame w s t) {a : Nat} {bs : List Byte}
    (hb : ∀ c, a ≤ c → c < a + bs.length → w.bytes c) : Frame w s (t.writeBytes a bs) :=
  { h with
    bytes := fun c hc => by
      have hout : ¬ (a ≤ c ∧ c < a + bs.length ∧ c < memSize) := fun ⟨hle, hlt, _⟩ => hc (hb c hle hlt)
      rw [State.readByte_writeBytes, dif_neg hout, h.bytes c hc] }

theorem Frame.setI (h : Frame w s t) (hi : w.index) (v : Word) : Frame w s (t.setI v) :=
  { h with index := fun hn => absurd hi hn }

theorem Frame.setSp (h : Frame w s t) (hsp : w.sp) (b : Byte) : Frame w s (t.setSp b) :=
  { h with sp := fun hn => absurd hsp hn }

theorem Frame.setSlot (h : Frame w s t) {j : Fin 16} (hj : w.slots j) (v : Word) : Frame w s (t.setSlot j v) :=
  { h with
    slots := fun k hk => by
      have hne : k ≠ j := by rintro rfl; exact hk hj
      rw [State.setSlot_slot, if_neg hne, h.slots k hk] }

theorem Frame.setDt (h : Frame w s t) (hdt : w.dt) (b : Byte) : Frame w s (t.setDt b) :=
  { h with dt := fun hn => absurd hdt hn }

theorem Frame.setSt (h : Frame w s t) (hst : w.st) (b : Byte) : Frame w s (t.setSt b) :=
  { h with st := fun hn => absurd hst hn }

theorem Frame.setFb (h : Frame w s t) {fb : Vector (BitVec 64) 32}
    (hfb : ∀ x y, ¬ w.pixels x y → fbPixel fb x y = t.pixel x y) : Frame w s (t.setFb fb) :=
  { h with pixels := fun x y hn => (hfb x y hn).trans (h.pixels x y hn) }

theorem Frame.setDraws (h : Frame w s t) (hd : w.draws) (n : Nat) : Frame w s { t with draws := n } :=
  { h with draws := fun hn => absurd hd hn }

end Frames

/-! ## What an instruction can do -/

/-- What each instruction may write beside pc, by the lists of 10_state.md sections 2 to 8. -/
def mayWrite (i : Instr) : MayWrite where
  regs := writesReg i
  bytes := fun _ => (∃ x, i = .ldB x) ∨ ∃ x, i = .stRegs x
  index := (∃ nnn, i = .ldI nnn) ∨ (∃ x, i = .addI x) ∨ ∃ x, i = .ldF x
  sp := (∃ nnn, i = .call nnn) ∨ i = .ret
  slots := fun _ => ∃ nnn, i = .call nnn
  dt := ∃ x, i = .ldDtVx x
  st := ∃ x, i = .ldStVx x
  pixels := fun _ _ => i = .cls ∨ ∃ x y n, i = .drw x y n
  draws := ∃ x kk, i = .rnd x kk

/-- `t` is a state in which `i` can have completed from `s`: pc by the table, nothing written that is not listed, and the
memory list left as it was or written by stores. -/
structure Completes (i : Instr) (s t : State) : Prop where
  pc : PcAfter i s t
  frame : Frame (mayWrite i) s t
  mem : t.mem = s.mem ∨ ∃ a bs, t.mem = Memory.writeList s.cfg.font s.mem a bs

/-- `t` is `s` with a fault of an instruction raised, which is never the fetch fault (60_exceptions.md R202). -/
def RaisesFault (i : Instr) (s t : State) : Prop := ∃ c, c ≠ .fetchOob ∧ t = s.raiseFault c (encode i)

section Exec
variable {i : Instr} {s t u : State}

theorem exec_next_unique (h : exec i s = .next t) (hu : exec i s = .next u) : t = u :=
  Host.Outcome.next.inj (h.symm.trans hu)

theorem RaisesFault.of_exec {c : FaultCode} (h : exec i s = .next t)
    (hu : exec i s = .next (s.raiseFault c (encode i))) (hc : c ≠ .fetchOob) : RaisesFault i s t :=
  ⟨c, hc, exec_next_unique h hu⟩

@[simp] theorem State.skipIf_mem (s : State) (c : Bool) : (s.skipIf c).mem = s.mem := by
  rw [State.skipIf_eq]; rfl

/-- The two pc clauses of a skip whose condition is `p`. -/
theorem State.pc_advance_skipIf (s : State) {c : Bool} {p : Prop} (hp : c = true ↔ p) :
    (p → (s.advance.skipIf c).pc = s.pc + 4#16) ∧ (¬ p → (s.advance.skipIf c).pc = s.pc + 2#16) := by
  rw [← hp, State.skipIf_eq, State.advance_eq]
  refine ⟨fun h => ?_, fun h => ?_⟩
  · simp [h, BitVec.add_assoc]
  · simp [h]

theorem State.exists_key_iff (s : State) {n : Nat} (h : n < 16) (p : Bool) :
    s.keyDown ⟨n, h⟩ = p ↔ ∃ k : KeyIx, k.val = n ∧ s.keyDown k = p :=
  ⟨fun hk => ⟨_, rfl, hk⟩, fun ⟨_, hv, hk⟩ => by subst hv; exact hk⟩

theorem exec_call_next {nnn : Addr12} (h : exec (.call nnn) s = .next t) :
    RaisesFault (.call nnn) s t ∨ Completes (.call nnn) s t := by
  rcases Nat.lt_or_ge s.sp.toNat 15 with hsp | hsp
  · obtain rfl := exec_next_unique h (execCall_push s nnn hsp)
    have hpush := ((Frame.refl (mayWrite (.call nnn)) s).setSp (.inl ⟨nnn, rfl⟩) (s.sp + 1#8)).setSlot
      (j := ⟨s.sp.toNat + 1, by omega⟩) ⟨nnn, rfl⟩ (s.pc + 2#16)
    exact .inr ⟨addr16_toNat nnn, hpush.setPc _, .inl rfl⟩
  · exact .inl (.of_exec h (execCall_overflow s nnn hsp) (by decide))

theorem exec_ret_next (h : exec .ret s = .next t) :
    RaisesFault .ret s t ∨ Completes .ret s t := by
  by_cases h0 : s.sp = 0#8
  · exact .inl (.of_exec h (execRet_underflow s h0) (by decide))
  rcases Nat.lt_or_ge s.sp.toNat 16 with hsp | hsp
  · obtain rfl := exec_next_unique h (execRet_pop s h0 hsp)
    exact .inr ⟨⟨_, rfl, rfl⟩, ((Frame.refl (mayWrite .ret) s).setPc _).setSp (.inr rfl) _, .inl rfl⟩
  · cases (execRet_missing s hsp).symm.trans h

theorem exec_skp_next {x : RegIx} (h : exec (.skp x) s = .next t) :
    RaisesFault (.skp x) s t ∨ Completes (.skp x) s t := by
  rcases Nat.lt_or_ge (s.reg x).toNat 16 with hk | hk
  · obtain rfl := exec_next_unique h (execSkp_key s x hk)
    have hp := s.exists_key_iff hk true
    exact .inr ⟨s.pc_advance_skipIf hp, (frame_advance _ s).skipIf _, .inl (State.skipIf_mem ..)⟩
  · exact .inl (.of_exec h (execSkp_outside s x hk) (by decide))

theorem exec_sknp_next {x : RegIx} (h : exec (.sknp x) s = .next t) :
    RaisesFault (.sknp x) s t ∨ Completes (.sknp x) s t := by
  rcases Nat.lt_or_ge (s.reg x).toNat 16 with hk | hk
  · obtain rfl := exec_next_unique h (execSknp_key s x hk)
    have hp := (Iff.of_eq (Bool.not_eq_true' _)).trans (s.exists_key_iff hk false)
    exact .inr ⟨s.pc_advance_skipIf hp, (frame_advance _ s).skipIf _, .inl (State.skipIf_mem ..)⟩
  · exact .inl (.of_exec h (execSknp_outside s x hk) (by decide))

theorem exec_ldVxK_completes {x : RegIx} (h : exec (.ldVxK x) s = .next t) :
    Completes (.ldVxK x) s t := by
  cases hk : s.firstKey with
  | none =>
    obtain rfl := exec_next_unique h (execLdVxK_none s x hk)
    have hnone : ∀ k, t.keyDown k = false := t.firstKey_eq_none.1 hk
    exact ⟨⟨fun _ => rfl, fun ⟨k, hd⟩ => by simp [hnone k] at hd⟩, Frame.refl _ _, .inl rfl⟩
  | some k =>
    obtain rfl := exec_next_unique h (execLdVxK_some s x hk)
    have hd : s.keyDown k = true := ((s.firstKey_eq_some k).1 hk).1
    exact ⟨⟨fun hn => by simp [hn k] at hd, fun _ => rfl⟩, (frame_advance _ s).setReg rfl _, .inl rfl⟩

theorem exec_drw_next {x y n : Fin 16} (h : exec (.drw x y n) s = .next t) :
    RaisesFault (.drw x y n) s t ∨ Completes (.drw x y n) s t := by
  cases hr : s.dataOutside n.val with
  | false =>
    obtain rfl := exec_next_unique h (execDrw_draw s x y n hr)
    have hfb := (frame_advance (mayWrite (.drw x y n)) s).setFb (fb := (s.drawn x y n).1)
      fun _ _ hn => absurd (.inr ⟨x, y, n, rfl⟩) hn
    exact .inr ⟨⟨False.elim, fun _ => rfl⟩, hfb.setReg rfl _, .inl rfl⟩
  | true => exact .inl (.of_exec h (execDrw_outside s x y n hr) (by decide))

theorem exec_ldB_next {x : RegIx} (h : exec (.ldB x) s = .next t) :
    RaisesFault (.ldB x) s t ∨ Completes (.ldB x) s t := by
  cases hr : s.dataOutside 3 with
  | false =>
    obtain rfl := exec_next_unique h (execLdB_store s x hr)
    exact .inr ⟨⟨False.elim, fun _ => rfl⟩, (frame_advance _ s).writeBytes fun _ _ _ => .inl ⟨x, rfl⟩,
      .inr ⟨_, _, rfl⟩⟩
  | true => exact .inl (.of_exec h (execLdB_outside s x hr) (by decide))

theorem exec_stRegs_next {x : RegIx} (h : exec (.stRegs x) s = .next t) :
    RaisesFault (.stRegs x) s t ∨ Completes (.stRegs x) s t := by
  cases hr : s.dataOutside (x.val + 1) with
  | false =>
    obtain rfl := exec_next_unique h (execStRegs_store s x hr)
    exact .inr ⟨⟨False.elim, fun _ => rfl⟩, (frame_advance _ s).writeBytes fun _ _ _ => .inr ⟨x, rfl⟩,
      .inr ⟨_, _, rfl⟩⟩
  | true => exact .inl (.of_exec h (execStRegs_outside s x hr) (by decide))

theorem exec_ldRegs_next {x : RegIx} (h : exec (.ldRegs x) s = .next t) :
    RaisesFault (.ldRegs x) s t ∨ Completes (.ldRegs x) s t := by
  cases hr : s.dataOutside (x.val + 1) with
  | false =>
    obtain rfl := exec_next_unique h (execLdRegs_load s x hr)
    exact .inr ⟨⟨False.elim, fun _ => State.loadRegs_pc ..⟩, (frame_advance _ s).loadRegs (fun _ hle => hle) _,
      .inl (State.loadRegs_mem ..)⟩
  | true => exact .inl (.of_exec h (execLdRegs_outside s x hr) (by decide))

/-- An instruction that has a next state raises its fault or completes. -/
theorem exec_next (h : exec i s = .next t) : RaisesFault i s t ∨ Completes i s t := by
  have adv := frame_advance (mayWrite i) s
  cases i
  case sys | reserved8 | reservedE | reservedF =>
    obtain rfl := exec_next_unique h rfl
    exact .inr ⟨⟨False.elim, fun _ => rfl⟩, adv, .inl rfl⟩
  case ldKk | addKk | ldVy | orVy | andVy | xorVy | ldVxDt =>
    obtain rfl := exec_next_unique h rfl
    exact .inr ⟨⟨False.elim, fun _ => rfl⟩, adv.setReg rfl _, .inl rfl⟩
  case rnd x kk =>
    obtain rfl := exec_next_unique h rfl
    exact .inr ⟨⟨False.elim, fun _ => rfl⟩, (adv.setReg rfl _).setDraws ⟨x, kk, rfl⟩ _, .inl rfl⟩
  case addVy | sub | shr | subn | shl =>
    obtain rfl := exec_next_unique h rfl
    exact .inr ⟨⟨False.elim, fun _ => rfl⟩, (adv.setReg (.inr rfl) _).setReg (.inl rfl) _, .inl rfl⟩
  case ldI | addI | ldF =>
    obtain rfl := exec_next_unique h rfl
    exact .inr ⟨⟨False.elim, fun _ => rfl⟩, adv.setI (by simp [mayWrite]) _, .inl rfl⟩
  case ldDtVx x =>
    obtain rfl := exec_next_unique h rfl
    exact .inr ⟨⟨False.elim, fun _ => rfl⟩, adv.setDt ⟨x, rfl⟩ _, .inl rfl⟩
  case ldStVx x =>
    obtain rfl := exec_next_unique h rfl
    exact .inr ⟨⟨False.elim, fun _ => rfl⟩, adv.setSt ⟨x, rfl⟩ _, .inl rfl⟩
  case cls =>
    obtain rfl := exec_next_unique h rfl
    exact .inr ⟨⟨False.elim, fun _ => rfl⟩, adv.setFb fun _ _ hn => absurd (.inl rfl) hn, .inl rfl⟩
  case jp nnn =>
    obtain rfl := exec_next_unique h rfl
    exact .inr ⟨addr16_toNat nnn, (Frame.refl _ s).setPc _, .inl rfl⟩
  case jpV0 nnn =>
    obtain rfl := exec_next_unique h rfl
    exact .inr ⟨s.offsetTarget_toNat nnn, (Frame.refl _ s).setPc _, .inl rfl⟩
  case seKk | seVy =>
    obtain rfl := exec_next_unique h rfl
    exact .inr ⟨s.pc_advance_skipIf beq_iff_eq, adv.skipIf _, .inl (State.skipIf_mem ..)⟩
  case sneKk | sneVy =>
    obtain rfl := exec_next_unique h rfl
    exact .inr ⟨s.pc_advance_skipIf bne_iff_ne, adv.skipIf _, .inl (State.skipIf_mem ..)⟩
  case reserved5 x y n =>
    obtain rfl := exec_next_unique h (execReserved5_eq s x y n)
    exact .inr ⟨s.pc_advance_skipIf (by simp [skips]), adv.skipIf _, .inl (State.skipIf_mem ..)⟩
  case reserved9 x y n =>
    obtain rfl := exec_next_unique h (execReserved9_eq s x y n)
    exact .inr ⟨s.pc_advance_skipIf (by simp [skips]), adv.skipIf _, .inl (State.skipIf_mem ..)⟩
  case call => exact exec_call_next h
  case ret => exact exec_ret_next h
  case skp => exact exec_skp_next h
  case sknp => exact exec_sknp_next h
  case ldVxK => exact .inr (exec_ldVxK_completes h)
  case drw => exact exec_drw_next h
  case ldB => exact exec_ldB_next h
  case stRegs => exact exec_stRegs_next h
  case ldRegs => exact exec_ldRegs_next h

end Exec

/-! ## What a cycle and an operation of the host can do -/

section Step
variable {i : Instr} {s t : State} {op : HostOp}

theorem exec_schedule (h : exec i s = .next t) : t.schedule = s.schedule := by
  rcases exec_next h with ⟨c, -, rfl⟩ | hc
  · rfl
  · exact hc.frame.schedule

/-- A cycle that has a next state leaves a stopped machine alone, or raises the fetch fault, or executes an instruction from
inside memory. -/
theorem cycle_next (h : cycle s = .next t) :
    (s.fault ≠ none ∧ t = s) ∨ (s.fault = none ∧ 0x0FFE < s.pc.toNat ∧ t = s.raiseFault .fetchOob 0#16) ∨
      (s.fault = none ∧ s.pc.toNat ≤ 0x0FFE ∧ exec (decodeWord s.fetchWord) s = .next t) := by
  by_cases hf : s.fault = none
  · rcases Nat.lt_or_ge 0x0FFE s.pc.toNat with hpc | hpc
    · exact .inr (.inl ⟨hf, hpc, Host.Outcome.next.inj (h.symm.trans (cycle_fetch_outside s hf hpc))⟩)
    · exact .inr (.inr ⟨hf, hpc, (cycle_running s hf hpc).symm.trans h⟩)
  · exact .inl ⟨hf, Host.Outcome.next.inj (h.symm.trans (cycle_stopped s hf))⟩

theorem cycle_schedule (h : cycle s = .next t) : t.schedule = s.schedule := by
  rcases cycle_next h with ⟨-, rfl⟩ | ⟨-, -, rfl⟩ | ⟨-, -, hx⟩
  · rfl
  · rfl
  · exact exec_schedule hx

@[simp] theorem State.load_schedule (s : State) (buffer : List Byte) : (s.load buffer).schedule = s.schedule := by
  unfold State.load; split <;> rfl

/-- No operation of the host changes what the host issues next. -/
theorem perform_schedule (h : perform op s = .next t) : t.schedule = s.schedule := by
  cases op
  case cycle => exact cycle_schedule h
  case load buffer =>
    obtain rfl := Host.Outcome.next.inj h
    exact s.load_schedule buffer
  all_goals
    obtain rfl := Host.Outcome.next.inj h
    rfl

end Step

/-! ## The invariant -/

section Invariant
variable {i : Instr} {s t : State} {op : HostOp}

/-- The invariant reads only sp, the stack, pc, memory, the font and the latch. -/
theorem State.Inv.of_eq (h : s.Inv) (hsp : t.sp = s.sp) (hstack : t.stack = s.stack) (hpc : t.pc = s.pc)
    (hmem : Memory.wf t.cfg.font t.mem) (hfault : t.fault = s.fault) : t.Inv where
  sp_le := hsp ▸ h.sp_le
  slot_zero := by simpa only [State.slot, hstack] using h.slot_zero
  slot_le := by simpa only [State.slot, hstack] using h.slot_le
  pc_le := hpc ▸ h.pc_le
  mem_wf := hmem
  fault_fits := hpc ▸ hfault ▸ h.fault_fits

/-- A fault keeps the invariant when its record fits: a fetch fault with the word 0 outside memory, another inside. -/
theorem State.Inv.raiseFault (h : s.Inv) {c : FaultCode} {w : Word} (hc : c = .fetchOob ↔ 0x0FFE < s.pc.toNat)
    (hw : c = .fetchOob → w = 0#16) : (s.raiseFault c w).Inv :=
  { h with
    fault_fits := by
      rintro f ⟨⟩
      exact ⟨rfl, hc, hw⟩ }

/-- sp indexes the stack after every instruction: CALL faults at 15, RET at 0. -/
theorem exec_sp_le (h : exec i s = .next t) (hs : s.sp.toNat ≤ 15) : t.sp.toNat ≤ 15 := by
  rcases exec_next h with ⟨c, -, rfl⟩ | hc
  · exact hs
  by_cases hw : (mayWrite i).sp
  · obtain ⟨nnn, rfl⟩ | rfl := hw
    · rcases Nat.lt_or_ge s.sp.toNat 15 with hsp | hsp
      · obtain rfl := exec_next_unique h (execCall_push s nnn hsp)
        have hinc : (s.sp + 1#8).toNat ≤ 15 := by bv_omega
        exact hinc
      · obtain rfl := exec_next_unique h (execCall_overflow s nnn hsp)
        exact hs
    · by_cases h0 : s.sp = 0#8
      · obtain rfl := exec_next_unique h (execRet_underflow s h0)
        exact hs
      · obtain rfl := exec_next_unique h (execRet_pop s h0 (Nat.lt_succ_of_le hs))
        rw [State.setSp_sp]; bv_omega
  · rw [hc.frame.sp hw]; exact hs

/-- A slot keeps its content, or it is not slot 0 and takes the address after the instruction. -/
theorem exec_slot (h : exec i s = .next t) (k : Fin 16) :
    t.slot k = s.slot k ∨ k ≠ 0 ∧ t.slot k = s.pc + 2#16 := by
  rcases exec_next h with ⟨c, -, rfl⟩ | hc
  · exact .inl rfl
  by_cases hw : (mayWrite i).slots k
  · obtain ⟨nnn, rfl⟩ := hw
    rcases Nat.lt_or_ge s.sp.toNat 15 with hsp | hsp
    · obtain rfl := exec_next_unique h (execCall_push s nnn hsp)
      rw [State.setPc_slot, State.setSlot_slot]
      split
      · next hk => exact .inr ⟨by simp [hk, Fin.ext_iff], rfl⟩
      · exact .inl rfl
    · obtain rfl := exec_next_unique h (execCall_overflow s nnn hsp)
      exact .inl rfl
  · exact .inl (hc.frame.slots k hw)

theorem toNat_le_of_pc_advance_or_skip {p : Prop} {pc pc' : Word}
    (h : (p → pc' = pc + 4#16) ∧ (¬ p → pc' = pc + 2#16)) (hpc : pc.toNat ≤ 0x0FFE) : pc'.toNat ≤ 0x10FE := by
  by_cases hp : p
  · rw [h.1 hp]; bv_omega
  · rw [h.2 hp]; bv_omega

/-- From inside memory every target of the table is at most the largest target of Bnnn (41_flow.md R114). -/
theorem PcAfter.le (h : PcAfter i s t) (hpc : s.pc.toNat ≤ 0x0FFE) (hslot : ∀ k, (s.slot k).toNat ≤ 0x1000) :
    t.pc.toNat ≤ 0x10FE := by
  cases i
  case jp nnn | call nnn =>
    have htarget : t.pc.toNat = nnn.toNat := h
    omega
  case jpV0 nnn =>
    have htarget : t.pc.toNat = nnn.toNat + (s.reg 0).toNat := h
    omega
  case ret =>
    obtain ⟨k, -, hk⟩ := h
    have := hslot k
    rw [hk]; omega
  case ldVxK x =>
    obtain ⟨hwait, hkey⟩ := h
    by_cases hk : ∃ k, s.keyDown k = true
    · rw [hkey hk]; bv_omega
    · rw [hwait (by simpa using hk)]; omega
  all_goals exact toNat_le_of_pc_advance_or_skip h hpc

theorem Completes.mem_wf (h : Completes i s t) (hs : Memory.wf s.cfg.font s.mem) : Memory.wf t.cfg.font t.mem := by
  rw [h.frame.cfg]
  obtain hm | ⟨a, bs, hm⟩ := h.mem
  · exact hm ▸ hs
  · exact hm ▸ Memory.wf_writeList bs hs

theorem Completes.inv (h : Completes i s t) (hx : exec i s = .next t) (hs : s.Inv) (hf : s.fault = none)
    (hpc : s.pc.toNat ≤ 0x0FFE) : t.Inv where
  sp_le := exec_sp_le hx hs.sp_le
  slot_zero := by
    rcases exec_slot hx 0 with h0 | ⟨h0, -⟩
    · exact h0.trans hs.slot_zero
    · exact absurd rfl h0
  slot_le k := by
    rcases exec_slot hx k with hk | ⟨-, hk⟩
    · rw [hk]; exact hs.slot_le k
    · rw [hk]; bv_omega
  pc_le := h.pc.le hpc hs.slot_le
  mem_wf := h.mem_wf hs.mem_wf
  fault_fits f hft := by simp [h.frame.fault, hf] at hft

theorem exec_inv (h : exec i s = .next t) (hs : s.Inv) (hf : s.fault = none) (hpc : s.pc.toNat ≤ 0x0FFE) : t.Inv := by
  rcases exec_next h with ⟨c, hc, rfl⟩ | hc
  · exact hs.raiseFault (by simp [hc, hpc]) fun he => absurd he hc
  · exact hc.inv h hs hf hpc

theorem cycle_inv (h : cycle s = .next t) (hs : s.Inv) : t.Inv := by
  rcases cycle_next h with ⟨-, rfl⟩ | ⟨-, hpc, rfl⟩ | ⟨hf, hpc, hx⟩
  · exact hs
  · exact hs.raiseFault (by simp [hpc]) fun _ => rfl
  · exact exec_inv hx hs hf hpc

end Invariant

/-! ## The state after reset -/

section Reset
variable (c : Config)

@[simp] theorem State.initial_reg (r : RegIx) : (State.initial c).reg r = 0#8 := by
  simp [State.reg, State.initial]

@[simp] theorem State.initial_slot (k : Fin 16) : (State.initial c).slot k = 0#16 := by
  simp [State.slot, State.initial]

@[simp] theorem State.initial_pixel (x y : Nat) : (State.initial c).pixel x y = false := fbPixel_clearScreen x y

@[simp] theorem State.initial_keyDown (k : KeyIx) : (State.initial c).keyDown k = false := by
  simp [State.keyDown, State.initial]

theorem State.initial_inv : (State.initial c).Inv where
  sp_le := Nat.zero_le 15
  slot_zero := State.initial_slot c 0
  slot_le k := by simp
  pc_le := show (0x0200#16).toNat ≤ 0x10FE by decide
  mem_wf := ⟨.nil, nofun⟩
  fault_fits _ hf := by simp [State.initial] at hf

theorem State.init_inv (s : State) : s.init.Inv :=
  (State.initial_inv s.cfg).of_eq rfl rfl rfl (State.initial_inv s.cfg).mem_wf rfl

end Reset

/-! ## The invariant under the host's operations -/

section HostOps
variable {s t : State} {op : HostOp}

theorem State.Inv.load (h : s.Inv) (buffer : List Byte) : (s.load buffer).Inv := by
  rcases Nat.lt_or_ge progMax buffer.length with hlen | hlen
  · rw [s.load_reject hlen]; exact h
  · rw [s.load_accept hlen]; exact h.of_eq rfl rfl rfl (Memory.wf_writeList buffer h.mem_wf) rfl

theorem perform_inv (h : perform op s = .next t) (hs : s.Inv) : t.Inv := by
  cases op
  case cycle => exact cycle_inv h hs
  all_goals obtain rfl := Host.Outcome.next.inj h
  case init => exact s.init_inv
  case load buffer => exact hs.load buffer
  case tickTimers | setKey => exact hs.of_eq rfl rfl rfl hs.mem_wf rfl
  case readFramebuffer | readTimers => exact hs

end HostOps

/-! ## The obligations -/

/-- Settles O58: the step is an operation of the host, and each keeps the invariant; `cycle` does because an instruction only
runs from inside memory and, by `exec_next`, faults or completes as the tables say. -/
theorem stepKeepsTheInvariant : Obligations.StepKeepsTheInvariant := by
  intro s t hs h
  cases hsched : s.schedule with
  | nil => exact cycle_inv ((step_cycle s hsched).symm.trans h) hs
  | cons op rest =>
    have hrest : ({ s with schedule := rest } : State).Inv := hs.of_eq rfl rfl rfl hs.mem_wf rfl
    exact perform_inv ((step_perform s hsched).symm.trans h) hrest

/-- Settles O51: no operation changes the list it is taken from. -/
theorem stepTakesTheOldestOperation : Obligations.StepTakesTheOldestOperation := by
  refine ⟨fun s hnil => step_cycle s hnil, fun s op rest hcons => ⟨step_perform s hcons, fun t h => ?_⟩⟩
  exact perform_schedule ((step_perform s hcons).symm.trans h)

/-- Settles O54: a fault writes no register, and an instruction that completes keeps its frame. -/
theorem registersWrittenAsListed : Obligations.RegistersWrittenAsListed := by
  intro i s t r h hr
  rcases exec_next h with ⟨c, -, rfl⟩ | hc
  · rfl
  · exact hc.frame.regs r hr

/-- Settles O55: a fault writes none of these, and an instruction that completes keeps its frame. -/
theorem specialRegistersWrittenAsListed : Obligations.SpecialRegistersWrittenAsListed := by
  intro i s t h
  rcases exec_next h with ⟨c, -, rfl⟩ | hc
  · simp
  · have f := hc.frame
    refine ⟨fun ⟨hLdI, hAddI, hLdF⟩ => f.index ?_, fun ⟨hCall, hRet⟩ => f.sp ?_, fun hCall k => f.slots k ?_,
      fun hDt => f.dt ?_, fun hSt => f.st ?_, f.keys, f.cfg, f.schedule⟩
    · simp [mayWrite, hLdI, hAddI, hLdF]
    · simp [mayWrite, hCall, hRet]
    · simp [mayWrite, hCall]
    · simp [mayWrite, hDt]
    · simp [mayWrite, hSt]

/-- Settles O56: the two clauses are the two outcomes of `exec_next`. -/
theorem pcFollowsTheTable : Obligations.PcFollowsTheTable := by
  intro i s t hf h
  rcases exec_next h with ⟨c, -, rfl⟩ | hc
  · exact ⟨fun hnone => by simp at hnone, fun _ => rfl⟩
  · exact ⟨fun _ => hc.pc, fun hne => absurd (hc.frame.fault.trans hf) hne⟩

/-- Settles O48, by the laws of `State.initial` under any parameters. -/
theorem resetState : Obligations.ResetState := by
  refine ⟨fun r => ?_, rfl, rfl, rfl, fun k => ?_, rfl, rfl, State.initial_pixel _, State.initial_keyDown _, rfl,
    Memory.background_font _, fun a => Memory.background_zero _⟩
  · rw [State.reset, State.initial_reg]; rfl
  · rw [State.reset, State.initial_slot]; rfl

/-- Settles O57: the initial state meets the invariant under any parameters. -/
theorem resetMeetsTheInvariant : Obligations.ResetMeetsTheInvariant := State.initial_inv defaultConfig

end Sys2Proof.Machine

/-! SUPPORT. What a run of stores leaves to be read and fetched, and the rules of 20_memory.md. -/

namespace Sys2Proof.Machine

/-! ## Reading after a run of stores -/

section Stores
variable {s : State} {a c k : Nat} {b : Byte} {bs : List Byte}

/-- Byte k of a run of stores stands at its k-th address. -/
theorem State.readByte_writeBytes_of_getElem? (hk : bs[k]? = some b) (hin : a + k < memSize) :
    (s.writeBytes a bs).readByte (a + k) = b := by
  obtain ⟨hlt, rfl⟩ := List.getElem?_eq_some_iff.1 hk
  rw [State.readByte_writeBytes, dif_pos ⟨Nat.le_add_right a k, Nat.add_lt_add_left hlt a, hin⟩]
  simp only [Nat.add_sub_cancel_left]

/-- A run of stores leaves the bytes below it and above it alone. -/
theorem State.readByte_writeBytes_outside (h : c < a ∨ a + bs.length ≤ c) :
    (s.writeBytes a bs).readByte c = s.readByte c := by
  rw [State.readByte_writeBytes, dif_neg (by omega)]

theorem State.regsUpTo_getElem? {x r : RegIx} (h : r ≤ x) : (s.regsUpTo x)[r.val]? = some (s.reg r) := by
  have hlt : r.val < (s.regsUpTo x).length := by rw [s.regsUpTo_length]; exact Nat.lt_succ_of_le h
  rw [List.getElem?_eq_getElem hlt, s.regsUpTo_getElem]

/-- Fx55 puts Vr at I + r (48_index_memory.md R194). -/
theorem State.readByte_writeBytes_regsUpTo {t : State} {x r : RegIx} (h : r ≤ x) (hin : a + x.val < memSize) :
    (t.writeBytes a (s.regsUpTo x)).readByte (a + r.val) = s.reg r :=
  State.readByte_writeBytes_of_getElem? (State.regsUpTo_getElem? h) (Nat.lt_of_le_of_lt (Nat.add_le_add_left h a) hin)

/-- Registers stored where pc points are fetched from there: V0 is the high byte, V1 the low byte (20_memory.md R62). -/
theorem State.fetchWord_writeBytes_regsUpTo {t : State} {x : RegIx} (hx : 1 ≤ x) (hin : t.pc.toNat + x.val < memSize) :
    (t.writeBytes t.pc.toNat (s.regsUpTo x)).fetchWord = wordOfBytes (s.reg 0) (s.reg 1) := by
  have hhi := State.readByte_writeBytes_regsUpTo (s := s) (t := t) (Fin.zero_le x) hin
  have hlo := State.readByte_writeBytes_regsUpTo (s := s) (t := t) hx hin
  exact congrArg₂ wordOfBytes hhi hlo

end Stores

theorem wordOfBytes_eq_ofNat (hi lo : Byte) : wordOfBytes hi lo = BitVec.ofNat 16 (hi.toNat * 256 + lo.toNat) := by
  rw [← wordOfBytes_toNat, BitVec.ofNat_toNat, BitVec.setWidth_eq]

/-! ## The obligations -/

/-- Settles O39: the store puts V0 and V1 where the advanced pc fetches. -/
theorem storeIsFetchedNext : Obligations.StoreIsFetchedNext := by
  intro x s hrun hx hi hin
  have hpc : s.advance.pc.toNat = s.pc.toNat + 2 := by rw [State.advance_eq, State.setPc_pc]; bv_omega
  have haddr : s.dataAddr 0 = s.advance.pc.toNat := by rw [s.dataAddr_zero, hi]; rfl
  have hinside : s.dataOutside (x.val + 1) = false :=
    (s.dataInside_iff _).2 (.inr (by rw [← s.dataAddr_zero, haddr, hpc]; omega))
  have hmem : s.advance.pc.toNat + x.val < memSize := by rw [hpc]; exact Nat.lt_succ_of_le hin
  have hfetch : s.advance.pc.toNat ≤ 0x0FFE := by omega
  refine ⟨s.advance.writeBytes s.advance.pc.toNat (s.regsUpTo x), haddr ▸ execStRegs_store s x hinside, ?_⟩
  rw [← wordOfBytes_eq_ofNat, ← State.fetchWord_writeBytes_regsUpTo hx hmem]
  exact cycle_running _ hrun hfetch

/-- Settles O46: an accepted buffer is a run of stores from 0x200 up, which ends inside memory. -/
theorem loadCopiesOrRefuses : Obligations.LoadCopiesOrRefuses := by
  refine fun buffer s => ⟨fun hlong => ⟨?_, ?_⟩, fun hfits => ⟨?_, s.writeBytes progBase buffer, ?_, ?_, ?_, rfl⟩⟩
  · simp [reply, loadAccepts, hlong]
  · rw [perform, s.load_reject hlong]
  · simp [reply, loadAccepts, hfits]
  · rw [perform, s.load_accept hfits]
  · intro k b hk
    have hlt : k < buffer.length := (List.getElem?_eq_some_iff.1 hk).1
    have hin : progBase + k < memSize := by simp only [progBase, memSize]; omega
    exact State.readByte_writeBytes_of_getElem? hk hin
  · exact fun a => State.readByte_writeBytes_outside

/-- Settles O52, by the one law of a read after a write. -/
theorem readGivesTheLastWrite : Obligations.ReadGivesTheLastWrite := by
  refine fun s a b v w ha hwf => ⟨?_, fun hne => ?_, Memory.wf_write hwf⟩
  · rw [State.readByte_writeByte, if_pos ⟨rfl, ha⟩]
  · rw [State.readByte_writeByte, if_neg fun h => hne h.1]

/-- Settles O53: a fault writes neither, and an instruction that completes keeps its frame. -/
theorem memoryAndScreenWrittenAsListed : Obligations.MemoryAndScreenWrittenAsListed := by
  intro i s t h
  rcases exec_next h with ⟨c, -, rfl⟩ | hc
  · exact ⟨fun _ _ => rfl, fun _ _ _ => rfl⟩
  · refine ⟨fun ⟨hLdB, hSt⟩ a => hc.frame.bytes a ?_, fun ⟨hCls, hDrw⟩ x y => hc.frame.pixels x y ?_⟩
    · simp [mayWrite, hLdB, hSt]
    · simp [mayWrite, hCls, hDrw]

end Sys2Proof.Machine

/-! SUPPORT. The decoder against the encoder, and against the opcode table of the spec (30_encoding.md). -/

namespace Sys2Proof.Laws

/-! ## The round trips -/

/-- The round trip, for every instruction. -/
theorem roundTrip : ∀ i : Instr, RoundTrip.Statement i
  | .cls => RoundTrip.cls
  | .ret => RoundTrip.ret
  | .sys nnn => RoundTrip.sys nnn
  | .jp nnn => RoundTrip.jp nnn
  | .call nnn => RoundTrip.call nnn
  | .seKk x kk => RoundTrip.seKk x kk
  | .sneKk x kk => RoundTrip.sneKk x kk
  | .seVy x y => RoundTrip.seVy x y
  | .ldKk x kk => RoundTrip.ldKk x kk
  | .addKk x kk => RoundTrip.addKk x kk
  | .ldVy x y => RoundTrip.ldVy x y
  | .orVy x y => RoundTrip.orVy x y
  | .andVy x y => RoundTrip.andVy x y
  | .xorVy x y => RoundTrip.xorVy x y
  | .addVy x y => RoundTrip.addVy x y
  | .sub x y => RoundTrip.sub x y
  | .shr x y => RoundTrip.shr x y
  | .subn x y => RoundTrip.subn x y
  | .shl x y => RoundTrip.shl x y
  | .sneVy x y => RoundTrip.sneVy x y
  | .ldI nnn => RoundTrip.ldI nnn
  | .jpV0 nnn => RoundTrip.jpV0 nnn
  | .rnd x kk => RoundTrip.rnd x kk
  | .drw x y n => RoundTrip.drw x y n
  | .skp x => RoundTrip.skp x
  | .sknp x => RoundTrip.sknp x
  | .ldVxDt x => RoundTrip.ldVxDt x
  | .ldVxK x => RoundTrip.ldVxK x
  | .ldDtVx x => RoundTrip.ldDtVx x
  | .ldStVx x => RoundTrip.ldStVx x
  | .addI x => RoundTrip.addI x
  | .ldF x => RoundTrip.ldF x
  | .ldB x => RoundTrip.ldB x
  | .stRegs x => RoundTrip.stRegs x
  | .ldRegs x => RoundTrip.ldRegs x
  | .reserved5 x y n => RoundTrip.reserved5 x y n
  | .reserved8 x y n => RoundTrip.reserved8 x y n
  | .reserved9 x y n => RoundTrip.reserved9 x y n
  | .reservedE x kk => RoundTrip.reservedE x kk
  | .reservedF x kk => RoundTrip.reservedF x kk

/-- The first level of the decoder (R83): a case for each top nibble, the families with a second level by their own rule. -/
theorem decodeWord_spec (w : Word) : wellFormed (decodeWord w) = true ∧ encode (decodeWord w) = w := by
  have hXyn := wordXyn_fields w
  have hXkk := wordXkk_fields w
  have hNnn := wordNnn_fields w
  rcases fin16_cases (fieldH w) with h|h|h|h|h|h|h|h|h|h|h|h|h|h|h|h <;> rw [h] at hXyn hXkk hNnn
  · simpa [decodeWord, h, hNnn] using decode0_spec (fieldNnn w)
  · simp [decodeWord, h, wellFormed, encode, hNnn]
  · simp [decodeWord, h, wellFormed, encode, hNnn]
  · simp [decodeWord, h, wellFormed, encode, hXkk]
  · simp [decodeWord, h, wellFormed, encode, hXkk]
  · simpa [decodeWord, h, hXyn] using decode5_spec (fieldX w) (fieldY w) (fieldN w)
  · simp [decodeWord, h, wellFormed, encode, hXkk]
  · simp [decodeWord, h, wellFormed, encode, hXkk]
  · simpa [decodeWord, h, hXyn] using decode8_spec (fieldX w) (fieldY w) (fieldN w)
  · simpa [decodeWord, h, hXyn] using decode9_spec (fieldX w) (fieldY w) (fieldN w)
  · simp [decodeWord, h, wellFormed, encode, hNnn]
  · simp [decodeWord, h, wellFormed, encode, hNnn]
  · simp [decodeWord, h, wellFormed, encode, hXkk]
  · simp [decodeWord, h, wellFormed, encode, hXyn]
  · simpa [decodeWord, h, hXkk] using decodeE_spec (fieldX w) (fieldKk w)
  · simpa [decodeWord, h, hXkk] using decodeF_spec (fieldX w) (fieldKk w)

/-- Settles O1: the bytes of `encode i` make that word again, and the decoder reads `i` from it. -/
theorem decodeOfEncodeIsIdentity : Obligations.DecodeOfEncodeIsIdentity := by
  intro i rest hwf
  calc decodeBytes (encodeBytes i ++ rest)
      = .ok (decodeWord (encode i), rest) := decodeBytes_word (encode i) rest
    _ = .ok (i, rest) := by rw [roundTrip i hwf]

/-- Settles O2, by the cases of the top nibble. -/
theorem encodeOfDecodeIsIdentity : Obligations.EncodeOfDecodeIsIdentity := decodeWord_spec

/-- Settles O4, by running the decoder on each word. -/
theorem sampleWordsDecode : Obligations.SampleWordsDecode :=
  ⟨rfl, rfl, rfl, rfl, rfl, rfl, rfl, rfl, rfl, rfl, rfl⟩

end Sys2Proof.Laws

/-! SUPPORT. The rows of the opcode table a word matches (30_encoding.md R84, R88). -/

namespace Sys2Proof.Machine

open Laws

/-! ## The rows of the opcode table -/

theorem tableRow_lt (i : Instr) : tableRow i < opcodeTable.length := by
  cases i <;> simp [tableRow, opcodeTable]

/-- The row of the opcode table an instruction is, with its match and its mask. -/
def rowOf (i : Instr) : Nat × Nat := opcodeTable[tableRow i]'(tableRow_lt i)

theorem getElem?_tableRow (i : Instr) : opcodeTable[tableRow i]? = some (rowOf i) :=
  List.getElem?_eq_getElem (tableRow_lt i)

theorem rowOf_mem (i : Instr) : rowOf i ∈ opcodeTable := List.getElem_mem _

section Formats
variable (h x y n : Fin 16) (kk : Byte) (nnn : Addr12)

theorem rowMatches_wordXyn_F00F : RowMatches (wordXyn h x y n).toNat (h.val * 4096 + n.val, 0xF00F) := by
  rw [RowMatches, mask_F00F _ (wordXyn h x y n).isLt, wordXyn_toNat]; omega

theorem rowMatches_wordXyn_F000 : RowMatches (wordXyn h x y n).toNat (h.val * 4096, 0xF000) := by
  rw [RowMatches, mask_F000 _ (wordXyn h x y n).isLt, wordXyn_toNat]; omega

theorem rowMatches_wordXkk_F0FF : RowMatches (wordXkk h x kk).toNat (h.val * 4096 + kk.toNat, 0xF0FF) := by
  rw [RowMatches, mask_F0FF _ (wordXkk h x kk).isLt, wordXkk_toNat]; omega

theorem rowMatches_wordXkk_F000 : RowMatches (wordXkk h x kk).toNat (h.val * 4096, 0xF000) := by
  rw [RowMatches, mask_F000 _ (wordXkk h x kk).isLt, wordXkk_toNat]; omega

theorem rowMatches_wordNnn_F000 : RowMatches (wordNnn h nnn).toNat (h.val * 4096, 0xF000) := by
  rw [RowMatches, mask_F000 _ (wordNnn h nnn).isLt, wordNnn_toNat]; omega

end Formats

/-- The word of an instruction matches the instruction's own row. -/
theorem rowMatches_encode (i : Instr) : RowMatches (encode i).toNat (rowOf i) := by
  cases i with
  | cls | ret => rfl
  | sys nnn | jp nnn | call nnn | ldI nnn | jpV0 nnn => exact rowMatches_wordNnn_F000 _ nnn
  | seKk x kk | sneKk x kk | ldKk x kk | addKk x kk | rnd x kk | reservedE x kk | reservedF x kk =>
    exact rowMatches_wordXkk_F000 _ x kk
  | seVy x y | ldVy x y | orVy x y | andVy x y | xorVy x y | addVy x y | sub x y | shr x y | subn x y | shl x y
  | sneVy x y => exact rowMatches_wordXyn_F00F _ x y _
  | drw x y n | reserved5 x y n | reserved8 x y n | reserved9 x y n => exact rowMatches_wordXyn_F000 _ x y n
  | skp x | sknp x | ldVxDt x | ldVxK x | ldDtVx x | ldStVx x | addI x | ldF x | ldB x | stRegs x | ldRegs x =>
    exact rowMatches_wordXkk_F0FF _ x _

/-! ## Rows that match one word -/

section Rows
variable {w : Word} {a b : Nat × Nat} {i : Instr}

/-- Every mask covers the top nibble. -/
theorem opcodeTable_mask : ∀ a ∈ opcodeTable, a.2 / 4096 = 0xF := by decide

theorem opcodeTable_nodup : opcodeTable.Nodup := by decide

/-- The mask tells apart the rows that match one word. -/
theorem RowMatches.eq_of_mask_eq {w : Nat} (ha : RowMatches w a) (hb : RowMatches w b) (h : a.2 = b.2) : a = b :=
  Prod.ext (by rw [← ha, ← hb, h]) h

/-- A word is of the family of every row it matches. -/
theorem RowMatches.family (hm : RowMatches w.toNat a) (ha : a ∈ opcodeTable) : a.1 / 4096 = (fieldH w).val := by
  have hdiv : (w.toNat &&& a.2) / 2 ^ 12 = w.toNat / 2 ^ 12 &&& a.2 / 2 ^ 12 := Nat.and_div_two_pow
  rw [fieldH_val, ← and_F, ← opcodeTable_mask a ha, ← hm]
  exact hdiv

/-- Under the mask F00F the low nibble selects the row. -/
theorem RowMatches.fieldN (hm : RowMatches w.toNat a) (hmask : a.2 = 0xF00F) : Fin.ofNat 16 a.1 = fieldN w := by
  rw [RowMatches, hmask, mask_F00F _ w.isLt] at hm
  apply Fin.ext
  rw [Fin.val_ofNat, fieldN_val]
  omega

/-- Under the mask F0FF the low byte selects the row. -/
theorem RowMatches.fieldKk (hm : RowMatches w.toNat a) (hmask : a.2 = 0xF0FF) : BitVec.ofNat 8 a.1 = fieldKk w := by
  rw [RowMatches, hmask, mask_F0FF _ w.isLt] at hm
  apply BitVec.eq_of_toNat_eq
  rw [BitVec.toNat_ofNat, fieldKk_toNat]
  omega

/-- Under the mask FFFF the whole word selects the row, in its family the low twelve bits. -/
theorem RowMatches.fieldNnn (hm : RowMatches w.toNat a) (hmask : a.2 = 0xFFFF) : BitVec.ofNat 12 a.1 = fieldNnn w := by
  rw [RowMatches, hmask, mask_FFFF _ w.isLt] at hm
  apply BitVec.eq_of_toNat_eq
  rw [BitVec.toNat_ofNat, fieldNnn_toNat, hm]

/-- A row with a smaller mask than another row of its family is a catch-all row. -/
theorem catchAll_of_mask_lt : ∀ a ∈ opcodeTable, ∀ b ∈ opcodeTable, a.1 / 4096 = b.1 / 4096 → a.2 < b.2 →
    a ∈ [(0x0000, 0xF000), (0x5000, 0xF000), (0x8000, 0xF000), (0x9000, 0xF000), (0xE000, 0xF000), (0xF000, 0xF000)] := by
  decide

/-! The rows a catch-all row leaves its words to, family by family. -/

theorem narrowRow_0 : ∀ b ∈ opcodeTable, b.1 / 4096 = 0x0 → 0xF000 < b.2 →
    b.2 = 0xFFFF ∧ (BitVec.ofNat 12 b.1 = 0x0E0#12 ∨ BitVec.ofNat 12 b.1 = 0x0EE#12) := by
  decide

theorem narrowRow_589 : ∀ h ∈ [(0x5 : Fin 16), 0x8, 0x9], ∀ b ∈ opcodeTable, b.1 / 4096 = h.val → 0xF000 < b.2 →
    b.2 = 0xF00F ∧ if h = 0x8 then aluCode (Fin.ofNat 16 b.1) = true else Fin.ofNat 16 b.1 = 0 := by
  decide

theorem narrowRow_EF : ∀ h ∈ [(0xE : Fin 16), 0xF], ∀ b ∈ opcodeTable, b.1 / 4096 = h.val → 0xF000 < b.2 →
    b.2 = 0xF0FF ∧ (if h = 0xE then keyCode (BitVec.ofNat 8 b.1) else miscCode (BitVec.ofNat 8 b.1)) = true := by
  decide

/-- A well-formed instruction's row has the largest mask of the rows its word matches: only a catch-all row could have a
smaller one, and `wellFormed` takes from it the words of the other rows of its family. -/
theorem mask_le_of_rowMatches_encode (hwf : wellFormed i = true) (hb : b ∈ opcodeTable)
    (hm : RowMatches (encode i).toNat b) : b.2 ≤ (rowOf i).2 := by
  by_contra hgt
  have hlt : (rowOf i).2 < b.2 := Nat.lt_of_not_le hgt
  have hfam : b.1 / 4096 = (fieldH (encode i)).val := hm.family hb
  have hown : (rowOf i).1 / 4096 = (fieldH (encode i)).val := (rowMatches_encode i).family (rowOf_mem i)
  have hcatch := catchAll_of_mask_lt _ (rowOf_mem i) b hb (hown.trans hfam.symm) hlt
  cases i with
  | sys nnn =>
    rw [encode, fieldH_wordNnn] at hfam
    obtain ⟨hmask, hcode⟩ := narrowRow_0 b hb hfam hlt
    rw [hm.fieldNnn hmask, encode, fieldNnn_wordNnn] at hcode
    rcases hcode with rfl | rfl <;> simp [wellFormed] at hwf
  | reserved5 x y n | reserved8 x y n | reserved9 x y n =>
    rw [encode, fieldH_wordXyn] at hfam
    obtain ⟨hmask, hcode⟩ := narrowRow_589 _ (by decide) b hb hfam hlt
    rw [hm.fieldN hmask, encode, fieldN_wordXyn] at hcode
    simp_all [wellFormed]
  | reservedE x kk | reservedF x kk =>
    rw [encode, fieldH_wordXkk] at hfam
    obtain ⟨hmask, hcode⟩ := narrowRow_EF _ (by decide) b hb hfam hlt
    rw [hm.fieldKk hmask, encode, fieldKk_wordXkk] at hcode
    simp_all [wellFormed]
  | _ => simp [rowOf, tableRow, opcodeTable] at hcatch

end Rows

/-! ## The obligation -/

/-- Settles O3: the word is that of a well-formed instruction, so no row it matches has a larger mask, and two rows it
matches with one mask are one row. -/
theorem decodeSelectsLargestMask : Obligations.DecodeSelectsLargestMask := by
  intro w k row
  obtain ⟨hwf, henc⟩ := decodeWord_spec w
  have hown : RowMatches w.toNat (rowOf (decodeWord w)) := by simpa only [henc] using rowMatches_encode (decodeWord w)
  rw [getElem?_tableRow]
  refine ⟨fun hrow => Option.some.inj hrow ▸ hown, fun hk hm hne => ⟨_, rfl, ?_⟩⟩
  obtain ⟨hlt, rfl⟩ := List.getElem?_eq_some_iff.1 hk
  refine Nat.lt_of_le_of_ne (mask_le_of_rowMatches_encode hwf (List.getElem_mem hlt) (henc.symm ▸ hm)) fun hmask => hne ?_
  exact (opcodeTable_nodup.getElem_inj_iff).1 (hm.eq_of_mask_eq hown hmask)

end Sys2Proof.Machine

/-! SUPPORT. The cycle and its dispatch (40_cycle_dispatch.md): what a stopped engine keeps, and what a running one fetches
and executes. -/

namespace Sys2Proof.Machine

/-! ## The latch of a stopped engine -/

section Latch
variable {s t : State} {op : HostOp}

@[simp] theorem State.load_fault (s : State) (buffer : List Byte) : (s.load buffer).fault = s.fault := by
  unfold State.load; split <;> rfl

/-- On a stopped engine only `init` changes the latch (60_exceptions.md R206). -/
theorem perform_fault_of_stopped (hstop : s.fault ≠ none) (hop : op ≠ .init) (h : perform op s = .next t) :
    t.fault = s.fault := by
  cases op
  case init => exact absurd rfl hop
  case cycle =>
    obtain rfl := Host.Outcome.next.inj ((cycle_stopped s hstop).symm.trans h)
    rfl
  case load buffer =>
    obtain rfl := Host.Outcome.next.inj h
    exact s.load_fault buffer
  all_goals
    obtain rfl := Host.Outcome.next.inj h
    rfl

/-- A step is `cycle` or an operation the host lists, and what it takes off the list is not the latch. -/
theorem step_fault_of_stopped (hstop : s.fault ≠ none) (hop : s.schedule.head? ≠ some .init) (h : step s = .next t) :
    t.fault = s.fault := by
  cases hsched : s.schedule with
  | nil => exact perform_fault_of_stopped (op := .cycle) hstop (by decide) ((step_cycle s hsched).symm.trans h)
  | cons op rest =>
    have hne : op ≠ .init := fun he => hop (by rw [hsched, List.head?_cons, he])
    exact perform_fault_of_stopped (s := { s with schedule := rest }) hstop hne ((step_perform s hsched).symm.trans h)

end Latch

/-! ## The fetched instruction -/

/-- The decoder reads from the two bytes at pc the instruction the cycle executes (R101). -/
theorem decodeBytes_fetch (s : State) :
    decodeBytes [s.readByte s.pc.toNat, s.readByte (s.pc.toNat + 1)] = .ok (decodeWord s.fetchWord, []) := rfl

/-- A running cycle executes the instruction that the two bytes at pc decode to (R105, R106). -/
theorem cycle_of_decodeBytes {s : State} {i : Instr} (hrun : s.fault = none) (hpc : s.pc.toNat ≤ 0x0FFE)
    (hdec : decodeBytes [s.readByte s.pc.toNat, s.readByte (s.pc.toNat + 1)] = .ok (i, [])) : cycle s = exec i s := by
  have hi : decodeWord s.fetchWord = i := congrArg Prod.fst (Except.ok.inj ((decodeBytes_fetch s).symm.trans hdec))
  rw [cycle_running s hrun hpc, hi]

/-! ## The obligations -/

/-- Settles O42: `cycle` is the identity on a stopped engine, and of the other operations only `init` writes the latch. -/
theorem latchHoldsUntilInit : Obligations.LatchHoldsUntilInit := by
  refine ⟨cycle_stopped, fun s t f hf h hop => ?_⟩
  have hstop : s.fault ≠ none := by rw [hf]; exact Option.some_ne_none f
  exact (step_fault_of_stopped hstop hop h).trans hf

/-- Settles O36: the fetched word, written as a number. -/
theorem fetchIsBigEndian : Obligations.FetchIsBigEndian := by
  intro s hrun hpc
  rw [cycle_running s hrun hpc, State.fetchWord, wordOfBytes_eq_ofNat]

/-- Settles O37: either way the step is a cycle, and the host's list is no part of what the cycle fetches. -/
theorem stepRunsDecodedInstruction : Obligations.StepRunsDecodedInstruction := by
  intro s i hrun hpc _ hdec
  refine ⟨fun hnil => ?_, fun rest hcons => ?_⟩
  · rw [step_cycle s hnil, cycle_of_decodeBytes hrun hpc hdec]
  · rw [step_perform s hcons]
    exact cycle_of_decodeBytes (s := { s with schedule := rest }) hrun hpc hdec

/-- Settles O38, by the cycle's rule for a fetch outside memory (R103). -/
theorem fetchOutsideMemoryFaults : Obligations.FetchOutsideMemoryFaults := cycle_fetch_outside

end Sys2Proof.Machine

/-! SUPPORT. Control transfer (41_flow.md): the words of format NNN, the two stack instructions by the slot they use, and a
return after a call. -/

namespace Sys2Proof.Machine

open Laws

/-! ## Words and latches -/

/-- An instruction written in format NNN is what the word of its family nibble and its address encodes. -/
theorem encodes_nnn {i : Instr} {h : Fin 16} {nnn : Addr12} (hi : encode i = wordNnn h nnn) (hwf : wellFormed i = true) :
    Encodes (h.val * 4096 + nnn.toNat) i :=
  encodes_of (roundTrip i) hwf (by rw [hi, wordNnn_toNat])

/-- A fault raised with the instruction's own word is the whole effect R201 describes. -/
theorem latches_raiseFault (c : FaultCode) (i : Instr) (s : State) : Latches c i s (s.raiseFault c (encode i)) := rfl

/-! ## The stack instructions, by the slot they use -/

section Stack
variable (s : State) {k : Fin 16}

/-- CALL writes the slot the incremented sp names (R113). -/
theorem exec_call_slot (nnn : Addr12) (hk : k.val = s.sp.toNat + 1) :
    exec (.call nnn) s = .next (((s.setSp (s.sp + 1#8)).setSlot k (s.pc + 2#16)).setPc (addr16 nnn)) := by
  obtain ⟨k, hlt⟩ := k
  obtain rfl : k = s.sp.toNat + 1 := hk
  exact execCall_push s nnn (Nat.lt_of_succ_lt_succ hlt)

/-- RET reads the slot sp names, with a call outstanding (R111). -/
theorem exec_ret_slot (hk : k.val = s.sp.toNat) (h1 : 1 ≤ k.val) :
    exec .ret s = .next ((s.setPc (s.slot k)).setSp (s.sp - 1#8)) := by
  obtain ⟨k, hlt⟩ := k
  obtain rfl : k = s.sp.toNat := hk
  have h0 : s.sp ≠ 0#8 := by rintro h0; simp [h0] at h1
  exact execRet_pop s h0 hlt

/-- A return straight after a call leaves the state before the call with the pushed slot written and pc after the call. -/
theorem exec_ret_after_call (nnn : Addr12) (hk : k.val = s.sp.toNat + 1) :
    exec .ret (((s.setSp (s.sp + 1#8)).setSlot k (s.pc + 2#16)).setPc (addr16 nnn)) =
      .next ((s.setSlot k (s.pc + 2#16)).setPc (s.pc + 2#16)) := by
  have hsp : k.val = (s.sp + 1#8).toNat := by have := k.isLt; bv_omega
  rw [exec_ret_slot _ hsp (by omega), State.setPc_slot, State.setSlot_slot, if_pos rfl]
  simp only [State.setPc, State.setSp, State.setSlot, BitVec.add_sub_cancel]

end Stack

/-! ## The obligations -/

/-- Settles O6: the three clauses are the three cases of RET. -/
theorem returnPopsTheStack : Obligations.ReturnPopsTheStack := by
  refine ⟨encodes_of RoundTrip.ret rfl rfl, fun s => ⟨fun h0 => ?_, fun k hk h1 => ?_, execRet_missing s⟩⟩
  · exact ⟨_, execRet_underflow s (BitVec.eq_of_toNat_eq h0), latches_raiseFault ..⟩
  · have hsp : (s.sp - 1#8).toNat = s.sp.toNat - 1 := by bv_omega
    exact ⟨_, exec_ret_slot s hk h1, rfl, hsp, ((Frame.refl _ s).setPc _).setSp trivial _⟩

/-- Settles O8: the two clauses are the two cases of CALL. -/
theorem callPushesTheReturnAddress : Obligations.CallPushesTheReturnAddress := by
  refine fun nnn => ⟨encodes_nnn (h := 2) rfl rfl, fun s => ⟨fun hfull => ?_, fun k hk => ?_⟩⟩
  · exact ⟨_, execCall_overflow s nnn hfull, latches_raiseFault ..⟩
  · have hsp : (s.sp + 1#8).toNat = s.sp.toNat + 1 := by have := k.isLt; bv_omega
    have hslot : ((s.setSp (s.sp + 1#8)).setSlot k (s.pc + 2#16)).slot k = s.pc + 2#16 := by
      rw [State.setSlot_slot, if_pos rfl]
    exact ⟨_, exec_call_slot s nnn hk, hsp, hslot, addr16_toNat nnn,
      (((Frame.refl _ s).setSp trivial _).setSlot rfl _).setPc _⟩

/-- Settles O10: the return pops what the call pushed, so only the slot and pc differ. -/
theorem returnUndoesCall : Obligations.ReturnUndoesCall := by
  intro nnn s hroom
  have hk : (⟨s.sp.toNat + 1, by omega⟩ : Fin 16).val = s.sp.toNat + 1 := rfl
  exact ⟨_, _, exec_call_slot s nnn hk, exec_ret_after_call s nnn hk, rfl, ((Frame.refl _ s).setSlot hk _).setPc _⟩

/-- Settles O5: SYS is the default advance and nothing more. -/
theorem sysOnlyAdvances : Obligations.SysOnlyAdvances := by
  refine ⟨fun nnn hCls hRet => ?_, fun nnn s => ⟨s.advance, rfl, rfl, frame_advance _ s⟩⟩
  have hwf : wellFormed (.sys nnn) = true := by simp [wellFormed, hCls, hRet]
  simpa using encodes_nnn (h := 0) rfl hwf

/-- Settles O7: JP only sets pc. -/
theorem jumpSetsPc : Obligations.JumpSetsPc :=
  fun nnn => ⟨encodes_nnn (h := 1) rfl rfl, fun s => ⟨_, rfl, addr16_toNat nnn, (Frame.refl _ s).setPc _⟩⟩

/-- Settles O9: nnn + V0 is below 2^16, so the sum kept in pc is the sum of the numbers. -/
theorem jumpWithOffsetAddsV0 : Obligations.JumpWithOffsetAddsV0 :=
  fun nnn => ⟨encodes_nnn (h := 0xB) rfl rfl, fun s => ⟨_, rfl, s.offsetTarget_toNat nnn, (Frame.refl _ s).setPc _⟩⟩

end Sys2Proof.Machine

/-! SUPPORT. The conditional skips on registers (42_skip.md): the words of formats XKK and XYN, and where a skip leaves pc. -/

namespace Sys2Proof.Machine

open Laws

/-! ## Words -/

section Words
variable {i : Instr} {h x y n : Fin 16} {kk : Byte}

/-- An instruction written in format XKK is what the word of its family nibble, its register and its byte encodes. -/
theorem encodes_xkk (hi : encode i = wordXkk h x kk) (hwf : wellFormed i = true) :
    Encodes (h.val * 4096 + 256 * x.val + kk.toNat) i :=
  encodes_of (roundTrip i) hwf (by rw [hi, wordXkk_toNat, Nat.mul_comm x.val])

/-- An instruction written in format XYN is what the word of its four nibbles encodes. -/
theorem encodes_xyn (hi : encode i = wordXyn h x y n) (hwf : wellFormed i = true) :
    Encodes (h.val * 4096 + 256 * x.val + 16 * y.val + n.val) i :=
  encodes_of (roundTrip i) hwf (by rw [hi, wordXyn_toNat, Nat.mul_comm x.val, Nat.mul_comm y.val])

end Words

/-! ## Where a skip leaves pc -/

section Skips
variable (s : State)

theorem frame_advance_skipIf (w : MayWrite) (c : Bool) : Frame w s (s.advance.skipIf c) := (frame_advance w s).skipIf c

/-- pc after a skip whose condition is `p`. -/
theorem State.pc_advance_skipIf_eq_ite {c : Bool} {p : Prop} [Decidable p] (hp : c = true ↔ p) :
    (s.advance.skipIf c).pc = if p then s.pc + 4#16 else s.pc + 2#16 := by
  obtain ⟨hskip, hstay⟩ := s.pc_advance_skipIf hp
  split
  · next h => exact hskip h
  · next h => exact hstay h

/-- A skip on equal bytes compares them as numbers (R120, R122). -/
theorem State.pc_advance_skipIf_beq (a b : Byte) :
    (s.advance.skipIf (a == b)).pc = if a.toNat = b.toNat then s.pc + 4#16 else s.pc + 2#16 :=
  s.pc_advance_skipIf_eq_ite (beq_iff_eq.trans BitVec.toNat_inj.symm)

/-- A skip on different bytes is the other way round (R121, R123). -/
theorem State.pc_advance_skipIf_bne (a b : Byte) :
    (s.advance.skipIf (a != b)).pc = if a.toNat = b.toNat then s.pc + 2#16 else s.pc + 4#16 :=
  (s.pc_advance_skipIf_eq_ite (bne_iff_ne.trans BitVec.toNat_inj.not.symm)).trans (ite_not ..)

end Skips

/-! ## The obligations -/

/-- Settles O13: under `nop` the condition of `execReserved5_eq` and `execReserved9_eq` is false, under `ignore` it is that of
5xy0 and 9xy0. -/
theorem reservedSkipWordsFollowParameter : Obligations.ReservedSkipWordsFollowParameter := by
  refine fun x y n => ⟨fun hn => ?_, fun s => ⟨?_, ?_⟩⟩
  · have hval : n.val ≠ 0 := fun h0 => hn (Fin.ext h0)
    exact ⟨encodes_xyn (h := 5) rfl (bne_iff_ne.2 hval), encodes_xyn (h := 9) rfl (bne_iff_ne.2 hval)⟩
  · exact ⟨_, execReserved5_eq s x y n, frame_advance_skipIf .., s.pc_advance_skipIf_eq_ite (by simp)⟩
  · exact ⟨_, execReserved9_eq s x y n, frame_advance_skipIf .., s.pc_advance_skipIf_eq_ite (by simp)⟩

/-- Settles O11: the two skips on Vx and kk. -/
theorem skipOnImmediate : Obligations.SkipOnImmediate := by
  refine fun x kk => ⟨encodes_xkk (h := 3) rfl rfl, encodes_xkk (h := 4) rfl rfl, fun s => ⟨?_, ?_⟩⟩
  · exact ⟨_, rfl, s.pc_advance_skipIf_beq (s.reg x) kk, frame_advance_skipIf ..⟩
  · exact ⟨_, rfl, s.pc_advance_skipIf_bne (s.reg x) kk, frame_advance_skipIf ..⟩

/-- Settles O12: the two skips on Vx and Vy. -/
theorem skipOnRegisters : Obligations.SkipOnRegisters := by
  refine fun x y => ⟨encodes_xyn (h := 5) (n := 0) rfl rfl, encodes_xyn (h := 9) (n := 0) rfl rfl, fun s => ⟨?_, ?_⟩⟩
  · exact ⟨_, rfl, s.pc_advance_skipIf_beq (s.reg x) (s.reg y), frame_advance_skipIf ..⟩
  · exact ⟨_, rfl, s.pc_advance_skipIf_bne (s.reg x) (s.reg y), frame_advance_skipIf ..⟩

end Sys2Proof.Machine

/-! SUPPORT. Immediates, I and the random byte (43_load_imm.md): an instruction that advances and writes its destination. -/

namespace Sys2Proof.Machine

/-- The default advance and a byte written to a destination the frame lists. -/
theorem frame_advance_setReg {w : MayWrite} (s : State) {x : RegIx} (hx : w.regs x) (b : Byte) :
    Frame w s (s.advance.setReg x b) :=
  (frame_advance w s).setReg hx b

/-! ## The obligations -/

/-- Settles O14: Vx receives kk itself. -/
theorem loadImmediate : Obligations.LoadImmediate :=
  fun x kk => ⟨encodes_xkk (h := 6) rfl rfl,
    fun s => ⟨_, rfl, s.advance.setReg_reg_same x kk, rfl, frame_advance_setReg s rfl kk⟩⟩

/-- Settles O15: the sum of two bytes is kept to 8 bits, and VF is a register other than Vx unless x = F. -/
theorem addImmediateWrapsWithoutFlag : Obligations.AddImmediateWrapsWithoutFlag := by
  refine fun x kk => ⟨encodes_xkk (h := 7) rfl rfl, fun s => ⟨_, rfl, ?_, fun hx => ?_, rfl, frame_advance_setReg s rfl _⟩⟩
  · rw [State.setReg_reg_same, BitVec.toNat_add]
  · exact s.advance.setReg_reg_ne hx.symm _

/-- Settles O16: an address of 12 bits is the same number in 16 bits. -/
theorem loadIndex : Obligations.LoadIndex :=
  fun nnn => ⟨encodes_nnn (h := 0xA) rfl rfl,
    fun s => ⟨_, rfl, addr16_toNat nnn, rfl, (frame_advance _ s).setI trivial _⟩⟩

/-- Settles O17: Vx receives the draw under the mask, and beside it only the counter of draws is written. -/
theorem randomByteUnderMask : Obligations.RandomByteUnderMask := by
  refine fun x kk => ⟨encodes_xkk (h := 0xC) rfl rfl, fun s => ⟨_, rfl, fun b _ => ?_, rfl, rfl, ?_⟩⟩
  · have hreg := s.advance.setReg_reg_same x (Config.randomByte s.draws &&& kk)
    exact (congrArg (·.getLsbD b) hreg).trans BitVec.getLsbD_and
  · exact (frame_advance_setReg s rfl _).setDraws trivial _

end Sys2Proof.Machine

/-! SUPPORT. The 8-bit ALU family and the reserved words of families 8, E and F (44_alu.md, 46_keypad.md R172,
48_index_memory.md R196): the operands as the flag write leaves them, and differences and shifts of bytes as numbers. -/

namespace Sys2Proof.Machine

/-! ## Words -/

/-- An instruction of family 8 is what the word of its function code and its two registers encodes. -/
theorem encodes_family8 {i : Instr} {x y n : Fin 16} (hi : encode i = wordXyn 0x8 x y n) (hwf : wellFormed i = true) :
    Encodes (0x8000 + n.val + 256 * x.val + 16 * y.val) i := by
  have hword : 0x8000 + n.val + 256 * x.val + 16 * y.val = (0x8 : Fin 16).val * 4096 + 256 * x.val + 16 * y.val + n.val := by
    have h8 : (0x8 : Fin 16).val = 8 := rfl
    omega
  exact hword ▸ encodes_xyn hi hwf

theorem aluCode_eq_false {n : Fin 16} (h : n.val ∈ [8, 9, 0xA, 0xB, 0xC, 0xD, 0xF]) : aluCode n = false := by
  decide +revert

/-- A byte is none of a list's bytes when its number is none of their numbers. -/
theorem contains_eq_false_of_toNat_notMem {l : List Byte} {b : Byte} (h : b.toNat ∉ l.map BitVec.toNat) :
    l.contains b = false := by
  rw [← Bool.not_eq_true, List.contains_iff_mem]
  exact fun hb => h (List.mem_map_of_mem hb)

/-! ## Bytes as numbers -/

theorem byte_sub_toNat (a b : Byte) : (a - b).toNat = (a.toNat + 256 - b.toNat) % 256 := by
  rw [BitVec.toNat_sub]; omega

theorem byte_ushiftRight_one_toNat (b : Byte) : (b >>> 1).toNat = b.toNat / 2 := by
  rw [BitVec.toNat_ushiftRight, Nat.shiftRight_one]

theorem byte_shiftLeft_one_toNat (b : Byte) : (b <<< 1).toNat = 2 * b.toNat % 256 := by
  rw [BitVec.toNat_shiftLeft, Nat.shiftLeft_eq]; omega

/-! ## The operands after the flag write (R140) -/

section Operands
variable (s : State) (f : Byte)

theorem setVf_reg_vf : (s.advance.setVf f).reg 15 = f := by rw [setVf_reg, if_pos rfl]

theorem setVf_reg_ne {r : RegIx} (h : r ≠ 15) : (s.advance.setVf f).reg r = s.reg r := by rw [setVf_reg, if_neg h]

/-- The difference 8xy5 and 8xy7 write: an operand that is VF is the flag. -/
theorem flagThenResult_sub_toNat (x a b : RegIx) {d : Nat}
    (hd : ((flagThenResult s x f fun t => t.reg a - t.reg b).reg x).toNat = d) :
    (a ≠ 15 → b ≠ 15 → d = ((s.reg a).toNat + 256 - (s.reg b).toNat) % 256) ∧
    (a = 15 → b ≠ 15 → d = (f.toNat + 256 - (s.reg b).toNat) % 256) ∧
    (a ≠ 15 → b = 15 → d = ((s.reg a).toNat + 256 - f.toNat) % 256) ∧
    (a = 15 → b = 15 → d = 0) := by
  rw [flagThenResult_result, byte_sub_toNat] at hd
  subst hd
  refine ⟨fun ha hb => ?_, fun ha hb => ?_, fun ha hb => ?_, fun ha hb => ?_⟩
  · rw [setVf_reg_ne s f ha, setVf_reg_ne s f hb]
  · rw [ha, setVf_reg_vf, setVf_reg_ne s f hb]
  · rw [setVf_reg_ne s f ha, hb, setVf_reg_vf]
  · rw [ha, hb, Nat.add_sub_cancel_left]

end Operands

/-- 8xy4 writes its flag first too; its sum does not read the registers again (R145). -/
theorem exec_addVy (x y : RegIx) (s : State) :
    exec (.addVy x y) s =
      .next (flagThenResult s x (addFlag s.cfg.addVfMode (s.reg x) (s.reg y)) fun _ => s.reg x + s.reg y) := rfl

/-! ## The obligations -/

/-- Settles O20: the carry out of the sum of two bytes is 0 or 1. -/
theorem addWritesCarry : Obligations.AddWritesCarry := by
  refine fun x y => ⟨encodes_family8 (n := 4) rfl rfl, fun s =>
    ⟨_, exec_addVy x y s, ?_, fun hx hmode => ?_, fun hx hmode => ?_, flagThenResult_pc .., flagThenResult_frame ..⟩⟩
  · rw [flagThenResult_result, BitVec.toNat_add]
  · rw [flagThenResult_flag s x _ _ hx, hmode, addFlag_carry]
    split <;> omega
  · rw [flagThenResult_flag s x _ _ hx, hmode, addFlag_alwaysOne]; rfl

/-- Settles O21: the four clauses say which of the operands the flag write replaced. -/
theorem subtractWritesStrictFlag : Obligations.SubtractWritesStrictFlag := by
  refine fun x y => ⟨encodes_family8 (n := 5) rfl rfl, fun s f hf => ?_⟩
  obtain rfl : (greaterFlag (s.reg x) (s.reg y)).toNat = f := (greaterFlag_toNat ..).trans hf.symm
  obtain ⟨hneither, hminuend, hsubtrahend, hboth⟩ := flagThenResult_sub_toNat s _ x x y rfl
  exact ⟨_, rfl, fun hx => congrArg _ (flagThenResult_flag s x _ _ hx), hneither, hminuend, hsubtrahend, hboth,
    flagThenResult_pc .., flagThenResult_frame ..⟩

/-- Settles O22: as O21, with Vy the minuend and Vx the subtrahend. -/
theorem reverseSubtractWritesStrictFlag : Obligations.ReverseSubtractWritesStrictFlag := by
  refine fun x y => ⟨encodes_family8 (n := 7) rfl rfl, fun s f hf => ?_⟩
  obtain rfl : (greaterFlag (s.reg y) (s.reg x)).toNat = f := (greaterFlag_toNat ..).trans hf.symm
  obtain ⟨hneither, hminuend, hsubtrahend, hboth⟩ := flagThenResult_sub_toNat s _ x y x rfl
  exact ⟨_, rfl, fun hx => congrArg _ (flagThenResult_flag s x _ _ hx), fun hx hy => hneither hy hx,
    fun hx hy => hsubtrahend hy hx, fun hx hy => hminuend hy hx, fun hx hy => hboth hy hx,
    flagThenResult_pc .., flagThenResult_frame ..⟩

/-- Settles O23: with x = F the shifts act on a flag of 0 or 1. -/
theorem shiftsWriteTheBitShiftedOut : Obligations.ShiftsWriteTheBitShiftedOut := by
  refine fun x y => ⟨encodes_family8 (n := 6) rfl rfl, encodes_family8 (n := 0xE) rfl rfl, fun s => ⟨?_, ?_⟩⟩
  · refine ⟨_, rfl, flagThenResult_pc .., flagThenResult_frame .., fun hx => ⟨?_, ?_⟩, ?_⟩
    · rw [flagThenResult_result, setVf_reg_ne s _ hx, byte_ushiftRight_one_toNat]
    · rw [flagThenResult_flag s x _ _ hx, shrFlag_toNat]
    · rintro rfl
      rw [flagThenResult_result, setVf_reg_vf, byte_ushiftRight_one_toNat, shrFlag_toNat]
      omega
  · refine ⟨_, rfl, flagThenResult_pc .., flagThenResult_frame .., fun hx => ⟨?_, ?_⟩, ?_⟩
    · rw [flagThenResult_result, setVf_reg_ne s _ hx, byte_shiftLeft_one_toNat]
    · rw [flagThenResult_flag s x _ _ hx, shlFlag_toNat]
    · rintro rfl
      rw [flagThenResult_result, setVf_reg_vf, byte_shiftLeft_one_toNat, shlFlag_toNat]
      split <;> omega

/-- Settles O24: a function code outside its family's list makes the word reserved, and a reserved instruction is the default
advance. -/
theorem reservedWordsAreNoOperations : Obligations.ReservedWordsAreNoOperations := by
  refine ⟨fun x y n hn => ?_, fun x kk hkk => ?_, fun x kk hkk => ?_, fun x y n kk i s hi => ?_⟩
  · exact encodes_xyn (h := 0x8) rfl (congrArg (!·) (aluCode_eq_false hn))
  · have hcode : keyCode kk = false := contains_eq_false_of_toNat_notMem hkk
    exact encodes_xkk (h := 0xE) rfl (congrArg (!·) hcode)
  · have hcode : miscCode kk = false := contains_eq_false_of_toNat_notMem hkk
    exact encodes_xkk (h := 0xF) rfl (congrArg (!·) hcode)
  · have hexec : exec i s = .next s.advance := by
      simp only [List.mem_cons, List.not_mem_nil, or_false] at hi
      obtain rfl | rfl | rfl := hi <;> rfl
    exact ⟨_, hexec, rfl, frame_advance _ s⟩

/-- Settles O18: Vx receives Vy itself. -/
theorem moveRegister : Obligations.MoveRegister :=
  fun x y => ⟨encodes_family8 (n := 0) rfl rfl,
    fun s => ⟨_, rfl, s.advance.setReg_reg_same x (s.reg y), rfl, frame_advance_setReg s rfl _⟩⟩

/-- Settles O19: the three operations write Vx alone, and each bit of the result is the operation on the operands' bits. -/
theorem logicWritesNoFlag : Obligations.LogicWritesNoFlag := by
  refine fun x y => ⟨encodes_family8 (n := 1) rfl rfl, encodes_family8 (n := 2) rfl rfl, encodes_family8 (n := 3) rfl rfl,
    fun s => ⟨?_, ?_, ?_⟩⟩
  · refine ⟨_, rfl, rfl, frame_advance_setReg s rfl _, fun b _ => ?_⟩
    rw [State.setReg_reg_same, BitVec.getLsbD_or]
  · refine ⟨_, rfl, rfl, frame_advance_setReg s rfl _, fun b _ => ?_⟩
    rw [State.setReg_reg_same, BitVec.getLsbD_and]
  · refine ⟨_, rfl, rfl, frame_advance_setReg s rfl _, fun b _ => ?_⟩
    rw [State.setReg_reg_same, BitVec.getLsbD_xor]

end Sys2Proof.Machine

/-! SUPPORT. Clear screen and sprite draw (45_display.md): the cells a draw toggles, and what it leaves on the screen and
in VF. -/

namespace Sys2Proof.Machine

section Draw
variable {s : State} {x y n : Fin 16} {a b : Nat}

/-- The cells Dxyn toggles: the on pixels of the sprite that lie on the grid (R161, R162). -/
def State.spriteCells (s : State) (x y n : Fin 16) : List (Nat × Nat) :=
  s.spritePixels (originX (s.reg x)) (originY (s.reg y)) n.val

/-- The state Dxyn leaves when the sprite lies in memory. -/
def State.afterDraw (s : State) (x y n : Fin 16) : State :=
  (s.advance.setFb (s.drawn x y n).1).setVf (collisionFlag (s.drawn x y n).2)

theorem exec_drw_inside (h : n.val = 0 ∨ s.i.toNat + n.val - 1 ≤ 0xFFF) :
    exec (.drw x y n) s = .next (s.afterDraw x y n) :=
  execDrw_draw s x y n ((s.dataInside_iff _).2 (by omega))

theorem exec_drw_outside (h1 : 1 ≤ n.val) (h : 0xFFF < s.i.toNat + n.val - 1) :
    exec (.drw x y n) s = .next (s.raiseFault .memOob (encode (.drw x y n))) :=
  execDrw_outside s x y n ((s.dataOutside_iff _).2 ⟨h1, h⟩)

theorem State.mem_spriteCells :
    (a, b) ∈ s.spriteCells x y n ↔ a < 64 ∧ b < 32 ∧ SpriteOn s x y n a b := by
  rw [State.spriteCells, State.mem_spritePixels, originX_eq, originY_eq, SpriteOn]
  tauto

/-- A draw toggles the sprite's cells and no other (R163 b). -/
theorem State.afterDraw_pixel :
    (s.afterDraw x y n).pixel a b = (s.pixel a b ^^ decide ((a, b) ∈ s.spriteCells x y n)) :=
  s.fbPixel_drawn x y n a b

theorem State.afterDraw_pixel_of_mem (h : (a, b) ∈ s.spriteCells x y n) :
    (s.afterDraw x y n).pixel a b = !s.pixel a b := by
  rw [State.afterDraw_pixel, decide_eq_true h, Bool.xor_true]

theorem State.afterDraw_pixel_of_notMem (h : (a, b) ∉ s.spriteCells x y n) :
    (s.afterDraw x y n).pixel a b = s.pixel a b := by
  rw [State.afterDraw_pixel, decide_eq_false h, Bool.xor_false]

theorem State.afterDraw_vf :
    (s.afterDraw x y n).reg 15 = flagByte ((s.spriteCells x y n).any fun p => s.pixel p.1 p.2) :=
  (State.setReg_reg_same ..).trans (congrArg flagByte (s.drawn_hit x y n))

/-- VF is 1 when a cell of the sprite was on (R163 c). -/
theorem State.afterDraw_vf_eq_one :
    (s.afterDraw x y n).reg 15 = 1#8 ↔ ∃ a b, (a, b) ∈ s.spriteCells x y n ∧ s.pixel a b = true := by
  rw [State.afterDraw_vf, flagByte_eq_one, List.any_eq_true, Prod.exists]

/-- VF is 0 when every cell of the sprite was off. -/
theorem State.afterDraw_vf_eq_zero :
    (s.afterDraw x y n).reg 15 = 0#8 ↔ ∀ a b, (a, b) ∈ s.spriteCells x y n → s.pixel a b = false := by
  simp only [State.afterDraw_vf, flagByte_eq_zero, List.any_eq_false, Prod.forall, Bool.not_eq_true]

theorem frame_afterDraw : Frame { regs := fun r => r = 15, pixels := SpriteOn s x y n } s (s.afterDraw x y n) := by
  refine ((frame_advance _ s).setFb fun a b hoff => ?_).setReg rfl _
  exact State.afterDraw_pixel_of_notMem fun hmem => hoff (State.mem_spriteCells.1 hmem).2.2

/-- A draw whose coordinates are not in VF leaves the sprite where it was: it writes neither a coordinate nor I nor memory. -/
theorem State.spriteCells_afterDraw (hx : x ≠ 15) (hy : y ≠ 15) :
    (s.afterDraw x y n).spriteCells x y n = s.spriteCells x y n := by
  have hregx : (s.afterDraw x y n).reg x = s.reg x := frame_afterDraw.regs x hx
  have hregy : (s.afterDraw x y n).reg y = s.reg y := frame_afterDraw.regs y hy
  rw [State.spriteCells, hregx, hregy]
  rfl

end Draw

/-! ## The obligations -/

/-- Settles O26: the two clauses are the two cases of DRW, and the cells drawn are those of `SpriteOn` on the grid. -/
theorem drawTogglesAndReportsCollision : Obligations.DrawTogglesAndReportsCollision := by
  refine fun x y n => ⟨encodes_xyn (h := 0xD) rfl rfl, fun s => ⟨fun h1 hout => ?_, fun hin => ?_⟩⟩
  · exact ⟨_, exec_drw_outside h1 hout, latches_raiseFault ..⟩
  · refine ⟨_, exec_drw_inside hin, fun a b ha hb hon => ?_, fun ⟨a, b, ha, hb, hon, hlit⟩ => ?_, fun hdark => ?_, rfl,
      frame_afterDraw⟩
    · exact State.afterDraw_pixel_of_mem (State.mem_spriteCells.2 ⟨ha, hb, hon⟩)
    · exact State.afterDraw_vf_eq_one.2 ⟨a, b, State.mem_spriteCells.2 ⟨ha, hb, hon⟩, hlit⟩
    · refine State.afterDraw_vf_eq_zero.2 fun a b hmem => ?_
      obtain ⟨ha, hb, hon⟩ := State.mem_spriteCells.1 hmem
      exact hdark a b ha hb hon

/-- Settles O27: the second draw toggles the same cells, and a cell of the sprite is on after the first draw exactly when
the first turned it on. -/
theorem drawTwiceRestoresTheScreen : Obligations.DrawTwiceRestoresTheScreen := by
  intro x y n s hx hy hin
  have hcells := State.spriteCells_afterDraw (s := s) (n := n) hx hy
  refine ⟨_, _, exec_drw_inside hin, exec_drw_inside (s := s.afterDraw x y n) hin, fun a b => ?_, ?_⟩
  · rw [State.afterDraw_pixel, hcells, State.afterDraw_pixel, Bool.xor_assoc, Bool.xor_self, Bool.xor_false]
  · rw [State.afterDraw_vf_eq_one, hcells]
    refine exists_congr fun a => exists_congr fun b => and_congr_left fun hlit => ?_
    by_cases hmem : (a, b) ∈ s.spriteCells x y n
    · rw [State.afterDraw_pixel_of_mem hmem, Bool.not_eq_true'] at hlit
      exact iff_of_true hmem hlit
    · rw [State.afterDraw_pixel_of_notMem hmem] at hlit
      exact iff_of_false hmem (by simp [hlit])

/-- Settles O25: every cell of the cleared screen is off, and the clear writes the screen alone. -/
theorem clsTurnsEveryPixelOff : Obligations.ClearScreen := by
  refine ⟨Laws.encodes_of Laws.RoundTrip.cls rfl rfl, fun s => ⟨_, rfl, fbPixel_clearScreen, rfl, ?_⟩⟩
  exact (frame_advance _ s).setFb fun _ _ hn => absurd trivial hn

end Sys2Proof.Machine

/-! SUPPORT. The keypad instructions (46_keypad.md): the words whose low byte is an operation code, and a skip by the key
whose index is in Vx. -/

namespace Sys2Proof.Machine

/-- An instruction of format XKK whose low byte is its operation code, with nibble and code read as one number. -/
theorem encodes_xcode {i : Instr} {h x : Fin 16} {code : Byte} {base : Nat} (hbase : base = h.val * 4096 + code.toNat)
    (hi : encode i = wordXkk h x code) (hwf : wellFormed i = true) : Encodes (base + 256 * x.val) i := by
  rw [hbase, Nat.add_right_comm]
  exact encodes_xkk hi hwf

section Keys
variable (s : State) {x : RegIx} {k : KeyIx}

/-- SKP skips by the level of the key whose index is in Vx (R170). -/
theorem exec_skp_of_key (hk : k.val = (s.reg x).toNat) :
    exec (.skp x) s = .next (s.advance.skipIf (s.keyDown k)) := by
  obtain ⟨k, hlt⟩ := k
  obtain rfl : k = (s.reg x).toNat := hk
  exact execSkp_key s x hlt

/-- SKNP skips by the opposite level of that key (R171). -/
theorem exec_sknp_of_key (hk : k.val = (s.reg x).toNat) :
    exec (.sknp x) s = .next (s.advance.skipIf (!s.keyDown k)) := by
  obtain ⟨k, hlt⟩ := k
  obtain rfl : k = (s.reg x).toNat := hk
  exact execSknp_key s x hlt

/-- A skip by the opposite of a level has its two targets exchanged. -/
theorem State.pc_advance_skipIf_not (c : Bool) :
    (s.advance.skipIf (!c)).pc = if c then s.pc + 2#16 else s.pc + 4#16 :=
  (s.pc_advance_skipIf_eq_ite (by simp)).trans (ite_not ..)

end Keys

/-- The index of a key fits in a byte. -/
theorem keyIndexByte_toNat (k : KeyIx) : (BitVec.ofNat 8 k.val).toNat = k.val := by
  rw [BitVec.toNat_ofNat]
  omega

/-! ## The obligations -/

/-- Settles O28: an index above 15 names no key and faults; any other names the key the skip tests. -/
theorem skipOnKey : Obligations.SkipOnKey := by
  refine fun x => ⟨encodes_xcode (h := 0xE) rfl rfl rfl, encodes_xcode (h := 0xE) rfl rfl rfl,
    fun s => ⟨fun hout => ⟨?_, ?_⟩, fun k hk => ⟨?_, ?_⟩⟩⟩
  · exact ⟨_, execSkp_outside s x hout, latches_raiseFault ..⟩
  · exact ⟨_, execSknp_outside s x hout, latches_raiseFault ..⟩
  · exact ⟨_, exec_skp_of_key s hk, frame_advance_skipIf .., s.pc_advance_skipIf_eq_ite Iff.rfl⟩
  · exact ⟨_, exec_sknp_of_key s hk, frame_advance_skipIf .., s.pc_advance_skipIf_not _⟩

/-- Settles O29: the least pressed key is the one Fx0A finds, and with none pressed it finds none. -/
theorem waitForKey : Obligations.WaitForKey := by
  refine fun x => ⟨encodes_xcode (h := 0xF) rfl rfl rfl, fun s => ⟨fun k hdown hlow => ?_, fun hnone => ?_⟩⟩
  · have hfirst : s.firstKey = some k := (s.firstKey_eq_some k).2 ⟨hdown, hlow⟩
    refine ⟨_, execLdVxK_some s x hfirst, ?_, rfl, frame_advance_setReg s rfl _⟩
    rw [State.setReg_reg_same, keyIndexByte_toNat]
  · exact execLdVxK_none s x (s.firstKey_eq_none.2 hnone)

end Sys2Proof.Machine

/-! SUPPORT. The timer instructions (47_timer_ops.md). -/

namespace Sys2Proof.Machine

/-- Settles O30: each is the default advance and one transfer, which stays inside what its frame lists. -/
theorem timerTransfers : Obligations.TimerTransfers := by
  refine fun x => ⟨encodes_xcode (h := 0xF) rfl rfl rfl, encodes_xcode (h := 0xF) rfl rfl rfl,
    encodes_xcode (h := 0xF) rfl rfl rfl, fun s => ⟨?_, ?_, ?_⟩⟩
  · exact ⟨_, rfl, s.advance.setReg_reg_same x s.dt, rfl, frame_advance_setReg s rfl _⟩
  · exact ⟨_, rfl, rfl, rfl, (frame_advance _ s).setDt trivial _⟩
  · exact ⟨_, rfl, rfl, rfl, (frame_advance _ s).setSt trivial _⟩

end Sys2Proof.Machine

/-! SUPPORT. Address-register arithmetic, the font lookup, the decimal store, the block store and the block load
(48_index_memory.md): the data range each needs, as a number, and what each leaves. -/

namespace Sys2Proof.Machine

/-! ## Data ranges -/

section Ranges
variable (s : State) (x : RegIx)

/-- The bytes at I to I + n do not all lie in memory when the last does not (20_memory.md R55). -/
theorem State.dataOutside_succ {n : Nat} (h : 0xFFF < s.i.toNat + n) : s.dataOutside (n + 1) = true :=
  (s.dataOutside_iff _).2 ⟨Nat.succ_pos n, h⟩

theorem State.dataInside_succ {n : Nat} (h : s.i.toNat + n ≤ 0xFFF) : s.dataOutside (n + 1) = false :=
  (s.dataInside_iff _).2 (.inr (Nat.succ_le_succ h))

theorem exec_ldB_outside (h : 0xFFF < s.i.toNat + 2) :
    exec (.ldB x) s = .next (s.raiseFault .memOob (encode (.ldB x))) :=
  execLdB_outside s x (s.dataOutside_succ h)

theorem exec_ldB_inside (h : s.i.toNat + 2 ≤ 0xFFF) :
    exec (.ldB x) s = .next (s.advance.writeBytes s.i.toNat (bcdDigits (s.reg x))) :=
  execLdB_store s x (s.dataInside_succ h)

theorem exec_stRegs_outside (h : 0xFFF < s.i.toNat + x.val) :
    exec (.stRegs x) s = .next (s.raiseFault .memOob (encode (.stRegs x))) :=
  execStRegs_outside s x (s.dataOutside_succ h)

theorem exec_stRegs_inside (h : s.i.toNat + x.val ≤ 0xFFF) :
    exec (.stRegs x) s = .next (s.advance.writeBytes s.i.toNat (s.regsUpTo x)) :=
  execStRegs_store s x (s.dataInside_succ h)

theorem exec_ldRegs_outside (h : 0xFFF < s.i.toNat + x.val) :
    exec (.ldRegs x) s = .next (s.raiseFault .memOob (encode (.ldRegs x))) :=
  execLdRegs_outside s x (s.dataOutside_succ h)

theorem exec_ldRegs_inside (h : s.i.toNat + x.val ≤ 0xFFF) :
    exec (.ldRegs x) s = .next (s.advance.loadRegs s.i.toNat x) :=
  execLdRegs_load s x (s.dataInside_succ h)

end Ranges

/-- Digit k of Vx is the byte a decimal store leaves at its k-th address, as a number (R192). -/
theorem State.readByte_writeBytes_bcdDigits {t : State} {a k d : Nat} {b : Byte}
    (hd : [b.toNat / 100, b.toNat / 10 % 10, b.toNat % 10][k]? = some d) (hin : a + k < memSize) :
    ((t.writeBytes a (bcdDigits b)).readByte (a + k)).toNat = d := by
  rw [← bcdDigits_toNat, List.getElem?_map, Option.map_eq_some_iff] at hd
  obtain ⟨digit, hdigit, rfl⟩ := hd
  rw [State.readByte_writeBytes_of_getElem? hdigit hin]

/-- The default advance and a run of stores write the bytes the run covers. -/
theorem frame_advance_writeBytes (s : State) {a n : Nat} {bs : List Byte} (hn : bs.length = n) :
    Frame { bytes := fun c => a ≤ c ∧ c < a + n } s (s.advance.writeBytes a bs) :=
  (frame_advance _ s).writeBytes fun _ hle hlt => ⟨hle, hn ▸ hlt⟩

/-! ## The obligations -/

/-- Settles O33: the two clauses are the two cases of the range, and the three bytes stored are the digits. -/
theorem decimalDigitsStored : Obligations.DecimalDigitsStored := by
  refine fun x => ⟨encodes_xcode (h := 0xF) rfl rfl rfl, fun s => ⟨fun hout => ?_, fun hin => ?_⟩⟩
  · exact ⟨_, exec_ldB_outside s x hout, latches_raiseFault ..⟩
  · have hmem : ∀ k ≤ 2, s.i.toNat + k < memSize := fun k hk =>
      Nat.lt_of_le_of_lt (Nat.add_le_add_left hk _) (Nat.lt_succ_of_le hin)
    exact ⟨_, exec_ldB_inside s x hin,
      State.readByte_writeBytes_bcdDigits (k := 0) rfl (hmem 0 (by decide)),
      State.readByte_writeBytes_bcdDigits (k := 1) rfl (hmem 1 (by decide)),
      State.readByte_writeBytes_bcdDigits (k := 2) rfl (hmem 2 (by decide)), rfl,
      frame_advance_writeBytes s (bcdDigits_length _)⟩

/-- Settles O34: the two clauses are the two cases of the range, and the run of stores is V0 to Vx in order. -/
theorem registersStored : Obligations.RegistersStored := by
  refine fun x => ⟨encodes_xcode (h := 0xF) rfl rfl rfl, fun s => ⟨fun hout => ?_, fun hin => ?_⟩⟩
  · exact ⟨_, exec_stRegs_outside s x hout, latches_raiseFault ..⟩
  · have hmem : s.i.toNat + x.val < memSize := Nat.lt_succ_of_le hin
    exact ⟨_, exec_stRegs_inside s x hin, fun k hk => State.readByte_writeBytes_regsUpTo hk hmem, rfl, rfl,
      frame_advance_writeBytes s (s.regsUpTo_length x)⟩

/-- Settles O35: the two clauses are the two cases of the range, and the load writes the registers up to Vx. -/
theorem registersLoaded : Obligations.RegistersLoaded := by
  refine fun x => ⟨encodes_xcode (h := 0xF) rfl rfl rfl, fun s => ⟨fun hout => ?_, fun hin => ?_⟩⟩
  · exact ⟨_, exec_ldRegs_outside s x hout, latches_raiseFault ..⟩
  · refine ⟨_, exec_ldRegs_inside s x hin, fun k hk => ?_, State.loadRegs_i .., State.loadRegs_pc ..,
      (frame_advance _ s).loadRegs (fun _ hle => hle) _⟩
    rw [State.loadRegs_reg, if_pos hk, State.advance_eq, State.setPc_readByte]

/-- Settles O31: I and the byte are added as 16-bit words. -/
theorem addToIndexWraps : Obligations.AddToIndexWraps := by
  refine fun x => ⟨encodes_xcode (h := 0xF) rfl rfl rfl, fun s => ⟨_, rfl, ?_, rfl, (frame_advance _ s).setI trivial _⟩⟩
  rw [State.setI_i, BitVec.toNat_add, zext16_toNat]

/-- Settles O32: the low four bits of Vx are at most 15, so the address is at most 0x050 + 75. -/
theorem glyphAddress : Obligations.GlyphAddress := by
  refine fun x => ⟨encodes_xcode (h := 0xF) rfl rfl rfl, fun s => ?_⟩
  have haddr := glyphAddr_toNat (s.reg x)
  have hlow : 0x050 ≤ (glyphAddr (s.reg x)).toNat := by omega
  have hhigh : (glyphAddr (s.reg x)).toNat ≤ 0x09B := by omega
  exact ⟨_, rfl, haddr, hlow, hhigh, rfl, (frame_advance _ s).setI trivial _⟩

end Sys2Proof.Machine

/-! SUPPORT. Faults (60_exceptions.md sections 1 and 2): the machine raises the fault of the table, and a state whose sp
indexes the stack is never stuck. -/

namespace Sys2Proof.Machine

section Faults
variable {i : Instr} {s : State} {c : FaultCode} {op : HostOp}

@[simp] theorem State.skipIf_fault (s : State) (b : Bool) : (s.skipIf b).fault = s.fault := by
  rw [State.skipIf_eq]; rfl

/-- An entry of the table is a condition and a code: what holds with that code under that condition holds with the code of
the entry. -/
theorem raises_of_ite_eq_some {p : Prop} [Decidable p] {c d : FaultCode}
    (hp : p → exec i s = .next (s.raiseFault c (encode i))) (h : (if p then some c else none) = some d) :
    exec i s = .next (s.raiseFault d (encode i)) := by
  obtain ⟨hcond, ⟨⟩⟩ := Option.ite_none_right_eq_some.1 h
  exact hp hcond

/-- An instruction raises the fault the table gives it (R202). -/
theorem exec_of_faultOf_eq_some (h : faultOf i s = some c) : exec i s = .next (s.raiseFault c (encode i)) := by
  cases i
  case drw x y n => exact raises_of_ite_eq_some (fun ⟨h1, hout⟩ => exec_drw_outside h1 hout) h
  case ldB x => exact raises_of_ite_eq_some (exec_ldB_outside s x) h
  case stRegs x => exact raises_of_ite_eq_some (exec_stRegs_outside s x) h
  case ldRegs x => exact raises_of_ite_eq_some (exec_ldRegs_outside s x) h
  case call nnn => exact raises_of_ite_eq_some (execCall_overflow s nnn) h
  case ret => exact raises_of_ite_eq_some (fun h0 => execRet_underflow s (BitVec.eq_of_toNat_eq h0)) h
  case skp x => exact raises_of_ite_eq_some (execSkp_outside s x) h
  case sknp x => exact raises_of_ite_eq_some (execSknp_outside s x) h
  all_goals cases h

/-- Where the table's entry is no fault its condition does not hold. -/
theorem not_of_ite_eq_none {p : Prop} [Decidable p] (h : (if p then some c else none) = none) : ¬ p :=
  fun hp => by simp [hp] at h

/-- The same, where the condition is that a number exceeds a bound. -/
theorem le_of_ite_eq_none {a b : Nat} (h : (if a < b then some c else none) = none) : b ≤ a :=
  Nat.le_of_not_lt (not_of_ite_eq_none h)

/-- An instruction to which the table gives no fault completes and leaves the latch (R203). -/
theorem exec_of_faultOf_eq_none (hsp : s.sp.toNat ≤ 15) (h : faultOf i s = none) :
    ∃ t, exec i s = .next t ∧ t.fault = s.fault := by
  cases i
  case drw x y n =>
    have hin := not_of_ite_eq_none h
    exact ⟨_, exec_drw_inside (by omega), rfl⟩
  case ldB x => exact ⟨_, exec_ldB_inside s x (le_of_ite_eq_none h), rfl⟩
  case stRegs x => exact ⟨_, exec_stRegs_inside s x (le_of_ite_eq_none h), rfl⟩
  case ldRegs x => exact ⟨_, exec_ldRegs_inside s x (le_of_ite_eq_none h), rfl⟩
  case call nnn => exact ⟨_, execCall_push s nnn (Nat.lt_of_not_le (not_of_ite_eq_none h)), rfl⟩
  case ret =>
    have h0 : s.sp ≠ 0#8 := fun h0 => not_of_ite_eq_none h (congrArg BitVec.toNat h0)
    exact ⟨_, execRet_pop s h0 (Nat.lt_succ_of_le hsp), rfl⟩
  case skp x => exact ⟨_, execSkp_key s x (Nat.lt_succ_of_le (le_of_ite_eq_none h)), State.skipIf_fault ..⟩
  case sknp x => exact ⟨_, execSknp_key s x (Nat.lt_succ_of_le (le_of_ite_eq_none h)), State.skipIf_fault ..⟩
  case ldVxK x =>
    cases hk : s.firstKey with
    | none => exact ⟨_, execLdVxK_none s x hk, rfl⟩
    | some k => exact ⟨_, execLdVxK_some s x hk, rfl⟩
  case reserved5 x y n => exact ⟨_, execReserved5_eq s x y n, State.skipIf_fault ..⟩
  case reserved9 x y n => exact ⟨_, execReserved9_eq s x y n, State.skipIf_fault ..⟩
  case seKk | sneKk | seVy | sneVy => exact ⟨_, rfl, State.skipIf_fault ..⟩
  all_goals exact ⟨_, rfl, rfl⟩

/-- Where sp indexes the stack every instruction has a next state, by the table's code or without a fault. -/
theorem exec_has_next (i : Instr) (hsp : s.sp.toNat ≤ 15) : ∃ t, exec i s = .next t := by
  cases h : faultOf i s with
  | none =>
    obtain ⟨t, ht, -⟩ := exec_of_faultOf_eq_none hsp h
    exact ⟨t, ht⟩
  | some c => exact ⟨_, exec_of_faultOf_eq_some h⟩

theorem cycle_has_next (hsp : s.sp.toNat ≤ 15) : ∃ t, cycle s = .next t := by
  by_cases hrun : s.fault = none
  · rcases Nat.lt_or_ge 0x0FFE s.pc.toNat with hpc | hpc
    · exact ⟨_, cycle_fetch_outside s hrun hpc⟩
    · exact cycle_running s hrun hpc ▸ exec_has_next _ hsp
  · exact ⟨_, cycle_stopped s hrun⟩

theorem perform_has_next (op : HostOp) (hsp : s.sp.toNat ≤ 15) : ∃ t, perform op s = .next t := by
  cases op
  case cycle => exact cycle_has_next hsp
  all_goals exact ⟨_, rfl⟩

/-- An instruction of a running machine that leaves the latch set has raised its fault (R201). -/
theorem latches_of_exec {t : State} (hrun : s.fault = none) (h : exec i s = .next t) (hf : t.fault ≠ none) :
    ∃ c, Latches c i s t := by
  rcases exec_next h with ⟨c, -, rfl⟩ | hc
  · exact ⟨c, latches_raiseFault ..⟩
  · exact absurd (hc.frame.fault.trans hrun) hf

end Faults

/-! ## The obligations -/

/-- Settles O40: an instruction that leaves the latch set raised its fault, and the word of the instruction a cycle decodes is
the word it fetched. -/
theorem faultIsPrecise : Obligations.FaultIsPrecise := by
  refine ⟨fun _ _ _ => latches_of_exec, fun s t f hrun hpc h hf => ?_⟩
  have hx : exec (decodeWord s.fetchWord) s = .next t := (cycle_running s hrun hpc).symm.trans h
  obtain ⟨c, rfl⟩ := latches_of_exec hrun hx (hf ▸ Option.some_ne_none f)
  obtain rfl := Option.some.inj hf
  refine ⟨rfl, ?_⟩
  rw [(Laws.decodeWord_spec _).2]
  exact wordOfBytes_toNat ..

/-- Settles O41: the table gives a fault, which is raised, or none, and then the latch stays clear. -/
theorem faultsFollowTheTable : Obligations.FaultsFollowTheTable := by
  intro i s hsp hrun
  cases h : faultOf i s with
  | none =>
    obtain ⟨t, ht, hf⟩ := exec_of_faultOf_eq_none hsp h
    exact ⟨t, ht, by rw [hf, hrun]; rfl⟩
  | some c => exact ⟨_, exec_of_faultOf_eq_some h, rfl⟩

/-- Settles O59: of the invariant it needs that sp indexes the stack. -/
theorem stepNeverGetsStuck : Obligations.StepNeverGetsStuck := by
  intro s hs
  cases hsched : s.schedule with
  | nil => exact step_cycle s hsched ▸ cycle_has_next hs.sp_le
  | cons op rest => exact step_perform s hsched ▸ perform_has_next (s := { s with schedule := rest }) op hs.sp_le

end Sys2Proof.Machine

/-! SUPPORT. The host's operations (60_exceptions.md sections 4 to 6, 70_reset_and_hazards.md section 1): ticks, the keypad,
the reads, `init`, and the latch they leave alone. -/

namespace Sys2Proof.Machine

section Operations
variable (s : State)

/-- `load` acts as if the latch were not there. -/
theorem State.load_with_fault (buffer : List Byte) (latch : Option FaultRecord) :
    ({ s with fault := latch } : State).load buffer = { s.load buffer with fault := latch } := by
  rcases Nat.lt_or_ge progMax buffer.length with hlen | hlen
  · simp only [State.load_reject _ hlen]
  · simp only [State.load_accept _ hlen, State.writeBytes]

/-- Cell y * 64 + x of the framebuffer read is the pixel of column x and row y (R222). -/
theorem State.cells_getElem? {x y : Nat} (hx : x < 64) (hy : y < 32) : s.cells[y * 64 + x]? = some (s.pixel x y) := by
  have hlt : y * 64 + x < 2048 := by omega
  have hcol : (y * 64 + x) % 64 = x := by omega
  have hrow : (y * 64 + x) / 64 = y := by omega
  rw [State.cells, List.getElem?_map, List.getElem?_range hlt, Option.map_some, hcol, hrow]

theorem State.cells_length : s.cells.length = 2048 := by
  rw [State.cells, List.length_map, List.length_range]

end Operations

/-! ## The obligations -/

/-- Settles O44: on each timer's number a tick is the predecessor, and k predecessors subtract k. -/
theorem manyTicksFloorAtZero : Obligations.ManyTicksFloorAtZero := by
  intro k s
  have hdt : Function.Semiconj (fun t : State => t.dt.toNat) State.tickTimers Nat.pred := fun t => tickTimer_toNat t.dt
  have hst : Function.Semiconj (fun t : State => t.st.toNat) State.tickTimers Nat.pred := fun t => tickTimer_toNat t.st
  exact ⟨(hdt.iterate_right k s).trans (Nat.pred_iterate ..), (hst.iterate_right k s).trans (Nat.pred_iterate ..)⟩

/-- Settles O49: each operation writes fields that are not the latch, from fields that are not the latch. -/
theorem otherOperationsIgnoreTheLatch : Obligations.OtherOperationsIgnoreTheLatch := by
  intro op s latch hcycle hinit
  cases op
  case cycle => exact absurd rfl hcycle
  case init => exact absurd rfl hinit
  case load buffer => exact ⟨_, rfl, s.load_fault buffer, congrArg _ (s.load_with_fault buffer latch)⟩
  all_goals exact ⟨_, rfl, rfl, rfl⟩

/-- Settles O50, by the cells in the order of their index. -/
theorem readsChangeNothing : Obligations.ReadsChangeNothing :=
  fun s => ⟨rfl, rfl, rfl, s.cells, rfl, s.cells_length, fun _ _ => s.cells_getElem?⟩

/-- Settles O43: a tick is a floored subtraction on each timer and writes no other field. -/
theorem tickCountsDownToZero : Obligations.TickCountsDownToZero := by
  intro s
  have hdt : s.tickTimers.dt.toNat = s.dt.toNat - 1 := tickTimer_toNat s.dt
  have hst : s.tickTimers.st.toNat = s.st.toNat - 1 := tickTimer_toNat s.st
  exact ⟨s.tickTimers, rfl, by omega, by omega, by omega, by omega, rfl,
    ((Frame.refl _ s).setDt trivial _).setSt trivial _⟩

/-- Settles O45, by the law of the keypad after `set_key`. -/
theorem setKeySetsOneKey : Obligations.SetKeySetsOneKey := by
  refine fun k pressed s => ⟨s.setKey k pressed, rfl, ?_, fun j hj => ?_, rfl⟩
  · rw [State.setKey_keyDown, if_pos rfl]
  · rw [State.setKey_keyDown, if_neg hj]

/-- Settles O47: `init` leaves the initial state of the machine's parameters, with the draws and the list kept. -/
theorem initIsTheSameFromAnyState : Obligations.InitIsTheSameFromAnyState := by
  refine fun s => ⟨s.init, rfl, fun r => ?_, rfl, rfl, rfl, fun k => ?_, rfl, rfl, State.initial_pixel s.cfg,
    State.initial_keyDown s.cfg, rfl, Memory.background_font _, fun a => Memory.background_zero _, rfl, rfl, rfl⟩
  · exact congrArg BitVec.toNat (State.initial_reg s.cfg r)
  · exact congrArg BitVec.toNat (State.initial_slot s.cfg k)

end Sys2Proof.Machine
